-- ==== Sys2Proof/Word.lean ====
section
/-! DEFINITION. The widths of the BPTC-CORE engine's words and the shapes of its register files
(spec/00_scope.md R5, R8; spec/10_state.md R20). In every word bit 0 is the least significant bit. -/

namespace Sys2Proof

/-- A 64-bit register value (`BLK_LO`, `BLK_HI`, `BF_VALUE`, `TEX[i]`), and the width of a host
transaction's value (R20, R380). -/
abbrev Word64 := BitVec 64

/-- A 32-bit register value (`CMD`, `STATUS`). -/
abbrev Word32 := BitVec 32

/-- A 16-bit value: an endpoint component register, or one lane of a texel (R32, R34). -/
abbrev Half := BitVec 16

/-- The 128-bit block: `BLK = BLK_HI * 2^64 + BLK_LO` (R8, R21). -/
abbrev Block := BitVec 128

/-- The number of a pixel of the block, 0..15 (R5). -/
abbrev Pixel := Fin 16

/-- An endpoint register file: component `c` (0 R, 1 G, 2 B, 3 A) of endpoint `e` at `4e + c` (R32). -/
abbrev EpFile := Vector Half 24

/-- An index register file: one 4-bit index per pixel (R33). -/
abbrev IdxFile := Vector (BitVec 4) 16

/-- The sixteen texel registers (R34). -/
abbrev TexFile := Vector Word64 16

end Sys2Proof
end

