-- ==== Sys2Proof/Syntax.lean ====
section
/-! DEFINITION. The instructions of the engine: one constructor per row of spec/opcode_table.json.
The engine decodes two kinds of word (spec/30_encoding.md R90): the 32-bit command word, whose rows
carry no operand (R91), and the 128-bit block, whose rows carry the fields of the mode's layout. That a
block row is an instruction of its own is a DESIGN CHOICE: log entry 4. -/

namespace Sys2Proof

/-- The fourteen live BC6H modes, named by their code (R190). -/
inductive Mode6
  | m0 | m1 | m2 | m3 | m6 | m7 | m10 | m11 | m14 | m15 | m18 | m22 | m26 | m30
deriving DecidableEq, Repr

/-- The eight BC7 modes; Reserved is not among them (R290). -/
inductive Mode7
  | m0 | m1 | m2 | m3 | m4 | m5 | m6 | m7
deriving DecidableEq, Repr

/-- The two block formats in scope (R1). -/
inductive Format
  | bc6h | bc7
deriving DecidableEq, Repr

/-- The operands of a live BC6H block: its fields as the block stores them, before delta decoding
(R101, R103, R224). A field the mode does not have is zero. -/
structure Fields6 where
  /-- The stored components; endpoints 0..3 are `w x y z` of R11, deltas in the transformed modes. -/
  raw : EpFile
  /-- The partition field `d`. -/
  part : BitVec 5
  /-- The colour indices, an anchor's implicit top bit being 0. -/
  idx : IdxFile
deriving DecidableEq, Repr

/-- The operands of a BC7 block of a mode: its fields as the block stores them, before the P-bits are
appended (R102, R103, R324). A field the mode does not have is zero. -/
structure Fields7 where
  /-- The raw stored components. -/
  raw : EpFile
  /-- The partition field (4 or 6 bits). -/
  part : BitVec 6
  /-- The rotation field of modes 4 and 5. -/
  rot : BitVec 2
  /-- The index mode bit of mode 4. -/
  idxm : BitVec 1
  /-- The stored P-bits, bit `k` = P-bit `k`. -/
  pbits : BitVec 6
  /-- The first index array. -/
  idx : IdxFile
  /-- The second index array (modes 4 and 5). -/
  idx2 : IdxFile
deriving DecidableEq, Repr

/-- The instructions: the 33 command words of R93, the 15 BC6H block rows of R96 and the 9 BC7 block
rows of R99. -/
inductive Instr
  /-- `NOP` (R384). -/
  | nop
  /-- `BF.EXTRACT` (R133). -/
  | bfExtract
  /-- `BF.STORE` (R134). -/
  | bfStore
  /-- `PT.SUBSET` (R163). -/
  | ptSubset
  /-- `PT.IDXWIDTH` (R164). -/
  | ptIdxWidth
  /-- `PT.IDXOFFSET` (R165). -/
  | ptIdxOffset
  /-- `BC6H.MODEOF` (R220). -/
  | bc6hModeOf
  /-- `BC6H.UNPACK.U` (R222). -/
  | bc6hUnpackU
  /-- `BC6H.UNPACK.S` (R222). -/
  | bc6hUnpackS
  /-- `BC6H.PACK.M0` (R264). -/
  | bc6hPackM0
  /-- `BC6H.PACK.M1` (R265). -/
  | bc6hPackM1
  /-- `BC6H.PACK.M2` (R266). -/
  | bc6hPackM2
  /-- `BC6H.PACK.M3` (R267). -/
  | bc6hPackM3
  /-- `BC6H.PACK.M6` (R268). -/
  | bc6hPackM6
  /-- `BC6H.PACK.M7` (R269). -/
  | bc6hPackM7
  /-- `BC6H.PACK.M10` (R270). -/
  | bc6hPackM10
  /-- `BC6H.PACK.M11` (R271). -/
  | bc6hPackM11
  /-- `BC6H.PACK.M14` (R272). -/
  | bc6hPackM14
  /-- `BC6H.PACK.M15` (R273). -/
  | bc6hPackM15
  /-- `BC6H.PACK.M18` (R274). -/
  | bc6hPackM18
  /-- `BC6H.PACK.M22` (R275). -/
  | bc6hPackM22
  /-- `BC6H.PACK.M26` (R276). -/
  | bc6hPackM26
  /-- `BC6H.PACK.M30` (R277). -/
  | bc6hPackM30
  /-- `BC7.MODEOF` (R320). -/
  | bc7ModeOf
  /-- `BC7.UNPACK` (R322). -/
  | bc7Unpack
  /-- `BC7.PACK.M0` (R353). -/
  | bc7PackM0
  /-- `BC7.PACK.M1` (R354). -/
  | bc7PackM1
  /-- `BC7.PACK.M2` (R355). -/
  | bc7PackM2
  /-- `BC7.PACK.M3` (R356). -/
  | bc7PackM3
  /-- `BC7.PACK.M4` (R357). -/
  | bc7PackM4
  /-- `BC7.PACK.M5` (R358). -/
  | bc7PackM5
  /-- `BC7.PACK.M6` (R359). -/
  | bc7PackM6
  /-- `BC7.PACK.M7` (R360). -/
  | bc7PackM7
  /-- `BLK6.M0`: a BC6H block of mode code 0 (R194). -/
  | blk6M0 (f : Fields6)
  /-- `BLK6.M1`: a BC6H block of mode code 1 (R195). -/
  | blk6M1 (f : Fields6)
  /-- `BLK6.M2`: a BC6H block of mode code 2 (R196). -/
  | blk6M2 (f : Fields6)
  /-- `BLK6.M3`: a BC6H block of mode code 3 (R197). -/
  | blk6M3 (f : Fields6)
  /-- `BLK6.M6`: a BC6H block of mode code 6 (R198). -/
  | blk6M6 (f : Fields6)
  /-- `BLK6.M7`: a BC6H block of mode code 7 (R199). -/
  | blk6M7 (f : Fields6)
  /-- `BLK6.M10`: a BC6H block of mode code 10 (R200). -/
  | blk6M10 (f : Fields6)
  /-- `BLK6.M11`: a BC6H block of mode code 11 (R201). -/
  | blk6M11 (f : Fields6)
  /-- `BLK6.M14`: a BC6H block of mode code 14 (R202). -/
  | blk6M14 (f : Fields6)
  /-- `BLK6.M15`: a BC6H block of mode code 15 (R203). -/
  | blk6M15 (f : Fields6)
  /-- `BLK6.M18`: a BC6H block of mode code 18 (R204). -/
  | blk6M18 (f : Fields6)
  /-- `BLK6.M22`: a BC6H block of mode code 22 (R205). -/
  | blk6M22 (f : Fields6)
  /-- `BLK6.M26`: a BC6H block of mode code 26 (R206). -/
  | blk6M26 (f : Fields6)
  /-- `BLK6.M30`: a BC6H block of mode code 30 (R207). -/
  | blk6M30 (f : Fields6)
  /-- `BLK6.UNKNOWN`: a block with selector 19, 23, 27 or 31 and its other 123 bits (R208). -/
  | blk6Unknown (sel : BitVec 5) (rest : BitVec 123)
  /-- `BLK7.M0`: a BC7 block of mode 0 (R294). -/
  | blk7M0 (f : Fields7)
  /-- `BLK7.M1`: a BC7 block of mode 1 (R295). -/
  | blk7M1 (f : Fields7)
  /-- `BLK7.M2`: a BC7 block of mode 2 (R296). -/
  | blk7M2 (f : Fields7)
  /-- `BLK7.M3`: a BC7 block of mode 3 (R297). -/
  | blk7M3 (f : Fields7)
  /-- `BLK7.M4`: a BC7 block of mode 4 (R298). -/
  | blk7M4 (f : Fields7)
  /-- `BLK7.M5`: a BC7 block of mode 5 (R299). -/
  | blk7M5 (f : Fields7)
  /-- `BLK7.M6`: a BC7 block of mode 6 (R300). -/
  | blk7M6 (f : Fields7)
  /-- `BLK7.M7`: a BC7 block of mode 7 (R301). -/
  | blk7M7 (f : Fields7)
  /-- `BLK7.RESERVED`: a block whose bits 7..0 are zero and its other 120 bits (R302). -/
  | blk7Reserved (rest : BitVec 120)
deriving DecidableEq, Repr

/-- The pack command of a BC6H mode (R92: MODE is the `<Mode>` of `pack<Mode>`). -/
def Instr.bc6hPack : Mode6 → Instr
  | .m0 => .bc6hPackM0
  | .m1 => .bc6hPackM1
  | .m2 => .bc6hPackM2
  | .m3 => .bc6hPackM3
  | .m6 => .bc6hPackM6
  | .m7 => .bc6hPackM7
  | .m10 => .bc6hPackM10
  | .m11 => .bc6hPackM11
  | .m14 => .bc6hPackM14
  | .m15 => .bc6hPackM15
  | .m18 => .bc6hPackM18
  | .m22 => .bc6hPackM22
  | .m26 => .bc6hPackM26
  | .m30 => .bc6hPackM30

/-- The pack command of a BC7 mode (R92). -/
def Instr.bc7Pack : Mode7 → Instr
  | .m0 => .bc7PackM0
  | .m1 => .bc7PackM1
  | .m2 => .bc7PackM2
  | .m3 => .bc7PackM3
  | .m4 => .bc7PackM4
  | .m5 => .bc7PackM5
  | .m6 => .bc7PackM6
  | .m7 => .bc7PackM7

/-- The block row of a live BC6H mode (R96). -/
def Instr.blk6 : Mode6 → Fields6 → Instr
  | .m0, f => .blk6M0 f
  | .m1, f => .blk6M1 f
  | .m2, f => .blk6M2 f
  | .m3, f => .blk6M3 f
  | .m6, f => .blk6M6 f
  | .m7, f => .blk6M7 f
  | .m10, f => .blk6M10 f
  | .m11, f => .blk6M11 f
  | .m14, f => .blk6M14 f
  | .m15, f => .blk6M15 f
  | .m18, f => .blk6M18 f
  | .m22, f => .blk6M22 f
  | .m26, f => .blk6M26 f
  | .m30, f => .blk6M30 f

/-- The block row of a BC7 mode (R99). -/
def Instr.blk7 : Mode7 → Fields7 → Instr
  | .m0, f => .blk7M0 f
  | .m1, f => .blk7M1 f
  | .m2, f => .blk7M2 f
  | .m3, f => .blk7M3 f
  | .m4, f => .blk7M4 f
  | .m5, f => .blk7M5 f
  | .m6, f => .blk7M6 f
  | .m7, f => .blk7M7 f

end Sys2Proof
end

