-- ==== Sys2Proof/Config.lean ====
section
/-! DEFINITION. The configuration of the engine: the constant data that the source names and does not
give (spec/00_scope.md R6), as one structure of parameters. They are no state: no command and no host
transaction writes them (spec/10_state.md R36). The reference values stand in Machine/Tables.lean. -/

namespace Sys2Proof

/-- One mode's BC6H descriptor, `DESC6[code]` (R191). -/
structure Desc6 where
  /-- The mode code, 0..30. -/
  code : Nat
  /-- Width of the selector, 2 or 5. -/
  selBits : Nat
  /-- Number of subsets, 1 or 2. -/
  ns : Nat
  /-- Whether endpoints 1..3 are stored as deltas. -/
  transformed : Bool
  /-- Endpoint width `EPB`. -/
  epb : Nat
  /-- Stored width of the R, G and B components of endpoints 1..3. -/
  dbR : Nat
  dbG : Nat
  dbB : Nat
  /-- Nominal index width. -/
  nom : Nat
  /-- First block bit of the index array. -/
  indexBegin : Nat
deriving DecidableEq, Repr

/-- The delta width of channel `c` (R191). -/
def Desc6.db (d : Desc6) (c : Fin 4) : Nat :=
  if c = 0 then d.dbR else if c = 1 then d.dbG else d.dbB

/-- The field names of R11: a component of an endpoint, or the partition field `d`. -/
inductive Field6
  | comp (e : Fin 6) (c : Fin 4)
  | d
deriving DecidableEq, Repr

/-! Endpoint 0 is `w`, 1 is `x`, 2 is `y`, 3 is `z`; the prefix is the channel (R11). -/

abbrev Field6.rw : Field6 := .comp 0 0
abbrev Field6.gw : Field6 := .comp 0 1
abbrev Field6.bw : Field6 := .comp 0 2
abbrev Field6.rx : Field6 := .comp 1 0
abbrev Field6.gx : Field6 := .comp 1 1
abbrev Field6.bx : Field6 := .comp 1 2
abbrev Field6.ry : Field6 := .comp 2 0
abbrev Field6.gy : Field6 := .comp 2 1
abbrev Field6.by : Field6 := .comp 2 2
abbrev Field6.rz : Field6 := .comp 3 0
abbrev Field6.gz : Field6 := .comp 3 1
abbrev Field6.bz : Field6 := .comp 3 2

/-- One line of a BC6H layout table: block bits `first..last` hold `field[hi:lo]`, the lowest block bit
holding `field[lo]`, or `field[hi]` where the line is marked reversed (R193). -/
structure Line6 where
  first : Nat
  last : Nat
  field : Field6
  hi : Nat
  lo : Nat
  reversed : Bool := false
deriving DecidableEq, Repr

/-- One entry of a layout: block bit `bit` holds bit `pos` of `field` (R101). -/
structure Entry6 where
  bit : Nat
  field : Field6
  pos : Nat
deriving DecidableEq, Repr

/-- Whether a BC7 mode has P-bits and to whom P-bit `k` belongs (R291). -/
inductive PbitKind
  | none | perEndpoint | perSubset
deriving DecidableEq, Repr

/-- One mode's BC7 descriptor, `DESC7[mode]` (R291). -/
structure Desc7 where
  /-- The mode number, 0..7. -/
  number : Nat
  /-- Number of subsets, 1, 2 or 3. -/
  ns : Nat
  /-- Partition, rotation and index mode bits. -/
  pb : Nat
  rb : Nat
  isb : Nat
  /-- Stored colour and alpha widths; an alpha width of 0 says that the mode has no alpha. -/
  cb : Nat
  ab : Nat
  /-- The P-bits: to whom they belong and how many are stored. -/
  pbits : PbitKind
  np : Nat
  /-- First and second index widths. -/
  ib : Nat
  ib2 : Option Nat
deriving DecidableEq, Repr

/-- The named fields of a BC7 layout (R108). -/
inductive Field7
  | part | rot | idxm
  | comp (e : Fin 6) (c : Fin 4)
  | pbit (k : Fin 6)
deriving DecidableEq, Repr

/-- A contiguous span of block bits: first bit and width (R293). -/
structure Span where
  pos : Nat
  width : Nat
deriving DecidableEq, Repr

/-- One mode's BC7 layout, `LAYOUT7[mode]` (R293): the span of every field, and where the index arrays
begin. -/
structure Layout7 where
  fields : List (Field7 × Span)
  indexBegin : Nat
  index2Begin : Nat
deriving DecidableEq, Repr

/-- A colour of three 16-bit half patterns. -/
structure RgbHalf where
  r : Half
  g : Half
  b : Half
deriving DecidableEq, Repr

/-- The parameters of R6, under the spec's names. -/
structure Config where
  p2Bc7 : Fin 64 → Pixel → Fin 2
  p2Bc6h : Fin 32 → Pixel → Fin 2
  p3Bc7 : Fin 64 → Pixel → Fin 3
  a2Bc7 : Fin 64 → Pixel
  a2Bc6h : Fin 32 → Pixel
  a3aBc7 : Fin 64 → Pixel
  a3bBc7 : Fin 64 → Pixel
  w2 : Fin 4 → Nat
  w3 : Fin 8 → Nat
  w4 : Fin 16 → Nat
  desc6 : Mode6 → Desc6
  layout6 : Mode6 → List Line6
  desc7 : Mode7 → Desc7
  layout7 : Mode7 → Layout7
  /-- `UNQ`: profile, endpoint width, component. -/
  unq : Bool → Nat → Int → Int
  /-- `FINISH`: profile, interpolated value. -/
  finish : Bool → Int → Half
  magenta : RgbHalf

/-- The invariants (a), (b) and (c) of R157 on the partition and anchor tables. -/
def Config.PartitionLaws (g : Config) : Prop :=
  (∀ p, g.p2Bc7 p 0 = 0) ∧ (∀ p, g.p2Bc6h p 0 = 0) ∧ (∀ p, g.p3Bc7 p 0 = 0) ∧
  (∀ p, g.a2Bc7 p ≠ 0) ∧ (∀ p, g.a2Bc6h p ≠ 0) ∧ (∀ p, g.a3aBc7 p ≠ 0) ∧ (∀ p, g.a3bBc7 p ≠ 0) ∧
  (∀ p, g.p2Bc7 p (g.a2Bc7 p) = 1) ∧ (∀ p, g.p2Bc6h p (g.a2Bc6h p) = 1) ∧
  (∀ p, g.p3Bc7 p (g.a3aBc7 p) = 1) ∧ (∀ p, g.p3Bc7 p (g.a3bBc7 p) = 2)

end Sys2Proof
end

