-- ==== Sys2Proof/Machine/BitField.lean ====
section
/-! DEFINITION. BitField128 (spec/40_bitfield.md): the block as one 128-bit little-endian-bit-numbered
register, reached by `extract` and `store`; the wire bytes (spec/20_memory.md R62); and the small integer
operations of the notation (spec/00_scope.md R9). -/

namespace Sys2Proof

/-! ## The notation's integers (R9) -/

/-- `mask(n) = 2^n - 1`, held in `w` bits. -/
def mask (w n : Nat) : BitVec w := BitVec.ofNat w (2 ^ n - 1)

/-- `sext_N(v)`: the integer that the low `n` bits of `v` denote in two's complement. -/
def sext (n v : Nat) : Int :=
  if (v % 2 ^ n).testBit (n - 1) then (v % 2 ^ n : Nat) - (2 ^ n : Nat) else (v % 2 ^ n : Nat)

/-- `x & mask(n)` of an integer: its residue in `0 .. 2^n - 1`. -/
def residue (n : Nat) (x : Int) : Nat := (x % (2 ^ n : Nat)).toNat

/-! ## The two functions (R130, R131) -/

/-- The precondition of `extract` and `store`: `1 <= n <= 64` and `i + n <= 128` (R130). -/
abbrev LegalSpan (i n : Nat) : Prop := 1 ≤ n ∧ n ≤ 64 ∧ i + n ≤ 128

/-- The `n` bits of the block from absolute bit `i` on: `MemRead(i, n)` of R10, the formula of `extract`
in R130. It stands for `extract` only at a legal span; the codec commands use it at no other (R64). -/
def memRead (b : Block) (i n : Nat) : Word64 :=
  (b >>> i).setWidth 64 &&& mask 64 n

/-- The block with the low `n` bits of `v` at absolute bit `i`, the destination bits cleared first:
`MemWrite(i, n, v)` of R10, the formula of `store` in R131, under the same condition. -/
def memWrite (b : Block) (i n : Nat) (v : Word64) : Block :=
  (b &&& ~~~(mask 128 n <<< i)) ||| ((v &&& mask 64 n).setWidth 128 <<< i)

/-- `extract(low, high, index, bitCount)` (R130): partial, without a value outside the precondition
(R135). -/
def extract (low high : Word64) (i n : Nat) : Option Word64 :=
  if LegalSpan i n then some (memRead (high ++ low) i n) else none

/-- `store(low, high, index, bitCount, value)` (R131): the new `(low, high)`; partial as `extract`. -/
def store (low high : Word64) (i n : Nat) (v : Word64) : Option (Word64 × Word64) :=
  if LegalSpan i n then
    let b := memWrite (high ++ low) i n v
    some (b.extractLsb' 0 64, b.extractLsb' 64 64)
  else none

/-! ## Building a block from its fields -/

/-- One field to place: its first block bit, its width and its value. -/
structure Placement where
  pos : Nat
  width : Nat
  value : Word64
deriving DecidableEq, Repr

/-- A block "freshly constructed": every field stored in turn into the zero block (R260, R350). -/
def placeAll (ps : List Placement) : Block :=
  ps.foldl (fun b p => memWrite b p.pos p.width p.value) 0#128

/-! ## The wire format (R22, R62) -/

/-- Wire byte `k` of a block: `BLK[8k+7 : 8k]`. -/
def blockByte (b : Block) (k : Fin 16) : BitVec 8 := b.extractLsb' (8 * k.val) 8

/-- The block of sixteen wire bytes, byte 0 first. -/
def blockOfBytes (bs : Vector (BitVec 8) 16) : Block :=
  (List.finRange 16).foldl (fun (b : Block) k =>
    b ||| ((bs[k].setWidth 128 : Block) <<< (8 * k.val))) 0#128

/-! ## Register files -/

/-- Component `c` of endpoint `e` of an endpoint file (R32). -/
def epAt (v : EpFile) (e : Fin 6) (c : Fin 4) : Half := v[4 * e.val + c.val]

/-- The endpoint file with component `f e c` at every place. -/
def epFile (f : Fin 6 → Fin 4 → Half) : EpFile :=
  Vector.ofFn fun k => f ⟨k.val / 4, by omega⟩ ⟨k.val % 4, by omega⟩

end Sys2Proof
end

