-- ==== Sys2Proof/Machine/Tables.lean ====
section
/-! DEFINITION. The reference values of the configuration (spec/00_scope.md R6): the partition and anchor
tables of spec/41_partition_tables.md, the weights of spec/42_interpolation.md, the mode descriptors and
layouts of spec/43_bc6h_modes.md and spec/46_bc7_modes.md, and the unquantize and finish functions and
the sentinel colour of spec/44_bc6h_decode.md. DESIGN CHOICE, unsafe: log entry 1. -/

namespace Sys2Proof

/-- Rows 0..15 of `P2_BC7` (R152): one hexadecimal digit per entry, entry 0 leftmost. -/
def p2Rows0 : List Nat :=
  [0x0011001100110011, 0x0001000100010001, 0x0111011101110111, 0x0001001100110111,
   0x0000000100010011, 0x0011011101111111, 0x0001001101111111, 0x0000000100110111,
   0x0000000000010011, 0x0011011111111111, 0x0000000101111111, 0x0000000000010111,
   0x0001011111111111, 0x0000000011111111, 0x0000111111111111, 0x0000000000001111]

/-- Rows 16..31 of `P2_BC7` (R152): one hexadecimal digit per entry, entry 0 leftmost. -/
def p2Rows16 : List Nat :=
  [0x0000100011101111, 0x0111000100000000, 0x0000000010001110, 0x0111001100010000,
   0x0011000100000000, 0x0000100011001110, 0x0000000010001100, 0x0111001100110001,
   0x0011000100010000, 0x0000100010001100, 0x0110011001100110, 0x0011011001101100,
   0x0001011111101000, 0x0000111111110000, 0x0111000110001110, 0x0011100110011100]

/-- Rows 32..47 of `P2_BC7` (R152): one hexadecimal digit per entry, entry 0 leftmost. -/
def p2Rows32 : List Nat :=
  [0x0101010101010101, 0x0000111100001111, 0x0101101001011010, 0x0011001111001100,
   0x0011110000111100, 0x0101010110101010, 0x0110100101101001, 0x0101101010100101,
   0x0111001111001110, 0x0001001111001000, 0x0011001001001100, 0x0011101111011100,
   0x0110100110010110, 0x0011110011000011, 0x0110011010011001, 0x0000011001100000]

/-- Rows 48..63 of `P2_BC7` (R152): one hexadecimal digit per entry, entry 0 leftmost. -/
def p2Rows48 : List Nat :=
  [0x0100111001000000, 0x0010011100100000, 0x0000001001110010, 0x0000010011100100,
   0x0110110010010011, 0x0011011011001001, 0x0110001110011100, 0x0011100111000110,
   0x0110110011001001, 0x0110001100111001, 0x0111111010000001, 0x0001100011100111,
   0x0000111100110011, 0x0011001111110000, 0x0010001011101110, 0x0100010001110111]

/-- Rows 0..15 of `P3_BC7` (R154): one hexadecimal digit per entry, entry 0 leftmost. -/
def p3Rows0 : List Nat :=
  [0x0011001102212222, 0x0001001122112221, 0x0000200122112211, 0x0222002200110111,
   0x0000000011221122, 0x0011001100220022, 0x0022002211111111, 0x0011001122112211,
   0x0000000011112222, 0x0000111111112222, 0x0000111122222222, 0x0012001200120012,
   0x0112011201120112, 0x0122012201220122, 0x0011011211221222, 0x0011200122002220]

/-- Rows 16..31 of `P3_BC7` (R154): one hexadecimal digit per entry, entry 0 leftmost. -/
def p3Rows16 : List Nat :=
  [0x0001001101121122, 0x0111001120012200, 0x0000112211221122, 0x0022002200221111,
   0x0111011102220222, 0x0001000122212221, 0x0000001101220122, 0x0000110022102210,
   0x0122012200110000, 0x0012001211222222, 0x0110122112210110, 0x0000011012211221,
   0x0022110211020022, 0x0110011020022222, 0x0011012201220011, 0x0000200022112221]

/-- Rows 32..47 of `P3_BC7` (R154): one hexadecimal digit per entry, entry 0 leftmost. -/
def p3Rows32 : List Nat :=
  [0x0000000211221222, 0x0222002200120011, 0x0011001200220222, 0x0120012001200120,
   0x0000111122220000, 0x0120120120120120, 0x0120201212010120, 0x0011220011220011,
   0x0011112222000011, 0x0101010122222222, 0x0000000021212121, 0x0022112200221122,
   0x0022001100220011, 0x0220122102201221, 0x0101222222220101, 0x0000212121212121]

/-- Rows 48..63 of `P3_BC7` (R154): one hexadecimal digit per entry, entry 0 leftmost. -/
def p3Rows48 : List Nat :=
  [0x0101010101012222, 0x0222011102220111, 0x0002111200021112, 0x0000211221122112,
   0x0222011101110222, 0x0002111211120002, 0x0110011001102222, 0x0000000021122112,
   0x0110011022222222, 0x0022001100110022, 0x0022112211220022, 0x0000000000002112,
   0x0002000100020001, 0x0222122202221222, 0x0101222222222222, 0x0111201122012220]

/-- Entry `i` of row `p` of a table written as rows of sixteen hexadecimal digits (R151). -/
def tableEntry (rows : List Nat) (p : Nat) (i : Pixel) : Nat :=
  (rows.getD p 0 / 16 ^ (15 - i.val)) % 16

/-- The rows of `P2_BC7` (R152). -/
def p2Rows : List Nat := p2Rows0 ++ p2Rows16 ++ p2Rows32 ++ p2Rows48

/-- The rows of `P3_BC7` (R154). -/
def p3Rows : List Nat := p3Rows0 ++ p3Rows16 ++ p3Rows32 ++ p3Rows48

/-- `A2_BC7` (R155), eight entries a line. -/
def a2Entries : List Nat :=
  [15, 15, 15, 15, 15, 15, 15, 15] ++
  [15, 15, 15, 15, 15, 15, 15, 15] ++
  [15, 2, 8, 2, 2, 8, 8, 15] ++
  [2, 8, 2, 2, 8, 8, 2, 2] ++
  [15, 15, 6, 8, 2, 8, 15, 15] ++
  [2, 8, 2, 2, 2, 15, 15, 6] ++
  [6, 2, 6, 8, 15, 15, 2, 2] ++
  [15, 15, 15, 15, 15, 2, 2, 15]

/-- `A3a_BC7` (R156), eight entries a line. -/
def a3aEntries : List Nat :=
  [3, 3, 15, 15, 8, 3, 15, 15] ++
  [8, 8, 6, 6, 6, 5, 3, 3] ++
  [3, 3, 8, 15, 3, 3, 6, 10] ++
  [5, 8, 8, 6, 8, 5, 15, 15] ++
  [8, 15, 3, 5, 6, 10, 8, 15] ++
  [15, 3, 15, 5, 15, 15, 15, 15] ++
  [3, 15, 5, 5, 5, 8, 5, 10] ++
  [5, 10, 8, 13, 15, 12, 3, 3]

/-- `A3b_BC7` (R156), eight entries a line. -/
def a3bEntries : List Nat :=
  [15, 8, 8, 3, 15, 15, 3, 8] ++
  [15, 15, 15, 15, 15, 15, 15, 8] ++
  [15, 8, 15, 3, 15, 8, 15, 8] ++
  [3, 15, 6, 10, 15, 15, 10, 8] ++
  [15, 3, 15, 10, 10, 8, 9, 10] ++
  [6, 15, 8, 15, 3, 6, 6, 8] ++
  [15, 3, 15, 15, 15, 15, 15, 15] ++
  [15, 15, 15, 15, 3, 15, 15, 8]

/-- The weights of R180, keyed by the index bit-count. -/
def weights2 : List Nat := [0, 21, 43, 64]
def weights3 : List Nat := [0, 9, 18, 27, 37, 46, 55, 64]
def weights4 : List Nat := [0, 4, 9, 13, 17, 21, 26, 30, 34, 38, 43, 47, 51, 55, 60, 64]

/-- The descriptor table of R191: code, selector bits, subsets, transformed, EPB, delta bits R G B,
nominal index width, first index bit. -/
def refDesc6 : Mode6 → Desc6
  | .m0 => ⟨0, 2, 2, true, 10, 5, 5, 5, 3, 82⟩
  | .m1 => ⟨1, 2, 2, true, 7, 6, 6, 6, 3, 82⟩
  | .m2 => ⟨2, 5, 2, true, 11, 5, 4, 4, 3, 82⟩
  | .m3 => ⟨3, 5, 1, false, 10, 10, 10, 10, 4, 65⟩
  | .m6 => ⟨6, 5, 2, true, 11, 4, 5, 4, 3, 82⟩
  | .m7 => ⟨7, 5, 1, true, 11, 9, 9, 9, 4, 65⟩
  | .m10 => ⟨10, 5, 2, true, 11, 4, 4, 5, 3, 82⟩
  | .m11 => ⟨11, 5, 1, true, 12, 8, 8, 8, 4, 65⟩
  | .m14 => ⟨14, 5, 2, true, 9, 5, 5, 5, 3, 82⟩
  | .m15 => ⟨15, 5, 1, true, 16, 4, 4, 4, 4, 65⟩
  | .m18 => ⟨18, 5, 2, true, 8, 6, 5, 5, 3, 82⟩
  | .m22 => ⟨22, 5, 2, true, 8, 5, 6, 5, 3, 82⟩
  | .m26 => ⟨26, 5, 2, true, 8, 5, 5, 6, 3, 82⟩
  | .m30 => ⟨30, 5, 2, false, 6, 6, 6, 6, 3, 82⟩

/-- "block bits a..b = f[h:l]" (R193). -/
def bits (a b : Nat) (f : Field6) (h l : Nat) : Line6 := ⟨a, b, f, h, l, false⟩

/-- "block bit a = f[k]" (R193). -/
def bit (a : Nat) (f : Field6) (k : Nat) : Line6 := ⟨a, a, f, k, k, false⟩

/-- "block bits a..b = f[l..h] reversed" (R193). -/
def rev (a b : Nat) (f : Field6) (l h : Nat) : Line6 := ⟨a, b, f, h, l, true⟩

/-- The layout of mode code 0 (R194). -/
def layout6M0 : List Line6 :=
  [bit 2 .gy 4, bit 3 .by 4, bit 4 .bz 4, bits 5 14 .rw 9 0,
   bits 15 24 .gw 9 0, bits 25 34 .bw 9 0, bits 35 39 .rx 4 0, bit 40 .gz 4,
   bits 41 44 .gy 3 0, bits 45 49 .gx 4 0, bit 50 .bz 0, bits 51 54 .gz 3 0,
   bits 55 59 .bx 4 0, bit 60 .bz 1, bits 61 64 .by 3 0, bits 65 69 .ry 4 0,
   bit 70 .bz 2, bits 71 75 .rz 4 0, bit 76 .bz 3, bits 77 81 .d 4 0]

/-- The layout of mode code 1 (R195). -/
def layout6M1 : List Line6 :=
  [bit 2 .gy 5, bits 3 4 .gz 5 4, bits 5 11 .rw 6 0, bits 12 13 .bz 1 0,
   bit 14 .by 4, bits 15 21 .gw 6 0, bit 22 .by 5, bit 23 .bz 2,
   bit 24 .gy 4, bits 25 31 .bw 6 0, bit 32 .bz 3, bit 33 .bz 5,
   bit 34 .bz 4, bits 35 40 .rx 5 0, bits 41 44 .gy 3 0, bits 45 50 .gx 5 0,
   bits 51 54 .gz 3 0, bits 55 60 .bx 5 0, bits 61 64 .by 3 0, bits 65 70 .ry 5 0,
   bits 71 76 .rz 5 0, bits 77 81 .d 4 0]

/-- The layout of mode code 2 (R196). -/
def layout6M2 : List Line6 :=
  [bits 5 14 .rw 9 0, bits 15 24 .gw 9 0, bits 25 34 .bw 9 0, bits 35 39 .rx 4 0,
   bit 40 .rw 10, bits 41 44 .gy 3 0, bits 45 48 .gx 3 0, bit 49 .gw 10,
   bit 50 .bz 0, bits 51 54 .gz 3 0, bits 55 58 .bx 3 0, bit 59 .bw 10,
   bit 60 .bz 1, bits 61 64 .by 3 0, bits 65 69 .ry 4 0, bit 70 .bz 2,
   bits 71 75 .rz 4 0, bit 76 .bz 3, bits 77 81 .d 4 0]

/-- The layout of mode code 3 (R197). -/
def layout6M3 : List Line6 :=
  [bits 5 14 .rw 9 0, bits 15 24 .gw 9 0, bits 25 34 .bw 9 0, bits 35 44 .rx 9 0,
   bits 45 54 .gx 9 0, bits 55 64 .bx 9 0]

/-- The layout of mode code 6 (R198). -/
def layout6M6 : List Line6 :=
  [bits 5 14 .rw 9 0, bits 15 24 .gw 9 0, bits 25 34 .bw 9 0, bits 35 38 .rx 3 0,
   bit 39 .rw 10, bit 40 .gz 4, bits 41 44 .gy 3 0, bits 45 49 .gx 4 0,
   bit 50 .gw 10, bits 51 54 .gz 3 0, bits 55 58 .bx 3 0, bit 59 .bw 10,
   bit 60 .bz 1, bits 61 64 .by 3 0, bits 65 68 .ry 3 0, bit 69 .bz 0,
   bit 70 .bz 2, bits 71 74 .rz 3 0, bit 75 .gy 4, bit 76 .bz 3,
   bits 77 81 .d 4 0]

/-- The layout of mode code 7 (R199). -/
def layout6M7 : List Line6 :=
  [bits 5 14 .rw 9 0, bits 15 24 .gw 9 0, bits 25 34 .bw 9 0, bits 35 43 .rx 8 0,
   bit 44 .rw 10, bits 45 53 .gx 8 0, bit 54 .gw 10, bits 55 63 .bx 8 0,
   bit 64 .bw 10]

/-- The layout of mode code 10 (R200). -/
def layout6M10 : List Line6 :=
  [bits 5 14 .rw 9 0, bits 15 24 .gw 9 0, bits 25 34 .bw 9 0, bits 35 38 .rx 3 0,
   bit 39 .rw 10, bit 40 .by 4, bits 41 44 .gy 3 0, bits 45 48 .gx 3 0,
   bit 49 .gw 10, bit 50 .bz 0, bits 51 54 .gz 3 0, bits 55 59 .bx 4 0,
   bit 60 .bw 10, bits 61 64 .by 3 0, bits 65 68 .ry 3 0, bits 69 70 .bz 2 1,
   bits 71 74 .rz 3 0, bit 75 .bz 4, bit 76 .bz 3, bits 77 81 .d 4 0]

/-- The layout of mode code 11 (R201). -/
def layout6M11 : List Line6 :=
  [bits 5 14 .rw 9 0, bits 15 24 .gw 9 0, bits 25 34 .bw 9 0, bits 35 42 .rx 7 0,
   rev 43 44 .rw 10 11, bits 45 52 .gx 7 0, rev 53 54 .gw 10 11, bits 55 62 .bx 7 0,
   rev 63 64 .bw 10 11]

/-- The layout of mode code 14 (R202). -/
def layout6M14 : List Line6 :=
  [bits 5 13 .rw 8 0, bit 14 .by 4, bits 15 23 .gw 8 0, bit 24 .gy 4,
   bits 25 33 .bw 8 0, bit 34 .bz 4, bits 35 39 .rx 4 0, bit 40 .gz 4,
   bits 41 44 .gy 3 0, bits 45 49 .gx 4 0, bit 50 .bz 0, bits 51 54 .gz 3 0,
   bits 55 59 .bx 4 0, bit 60 .bz 1, bits 61 64 .by 3 0, bits 65 69 .ry 4 0,
   bit 70 .bz 2, bits 71 75 .rz 4 0, bit 76 .bz 3, bits 77 81 .d 4 0]

/-- The layout of mode code 15 (R203). -/
def layout6M15 : List Line6 :=
  [bits 5 14 .rw 9 0, bits 15 24 .gw 9 0, bits 25 34 .bw 9 0, bits 35 38 .rx 3 0,
   rev 39 44 .rw 10 15, bits 45 48 .gx 3 0, rev 49 54 .gw 10 15, bits 55 58 .bx 3 0,
   rev 59 64 .bw 10 15]

/-- The layout of mode code 18 (R204). -/
def layout6M18 : List Line6 :=
  [bits 5 12 .rw 7 0, bit 13 .gz 4, bit 14 .by 4, bits 15 22 .gw 7 0,
   bit 23 .bz 2, bit 24 .gy 4, bits 25 32 .bw 7 0, bits 33 34 .bz 4 3,
   bits 35 40 .rx 5 0, bits 41 44 .gy 3 0, bits 45 49 .gx 4 0, bit 50 .bz 0,
   bits 51 54 .gz 3 0, bits 55 59 .bx 4 0, bit 60 .bz 1, bits 61 64 .by 3 0,
   bits 65 70 .ry 5 0, bits 71 76 .rz 5 0, bits 77 81 .d 4 0]

/-- The layout of mode code 22 (R205). -/
def layout6M22 : List Line6 :=
  [bits 5 12 .rw 7 0, bit 13 .bz 0, bit 14 .by 4, bits 15 22 .gw 7 0,
   bit 23 .gy 5, bit 24 .gy 4, bits 25 32 .bw 7 0, bit 33 .gz 5,
   bit 34 .bz 4, bits 35 39 .rx 4 0, bit 40 .gz 4, bits 41 44 .gy 3 0,
   bits 45 50 .gx 5 0, bits 51 54 .gz 3 0, bits 55 59 .bx 4 0, bit 60 .bz 1,
   bits 61 64 .by 3 0, bits 65 69 .ry 4 0, bit 70 .bz 2, bits 71 75 .rz 4 0,
   bit 76 .bz 3, bits 77 81 .d 4 0]

/-- The layout of mode code 26 (R206). -/
def layout6M26 : List Line6 :=
  [bits 5 12 .rw 7 0, bit 13 .bz 1, bit 14 .by 4, bits 15 22 .gw 7 0,
   bit 23 .by 5, bit 24 .gy 4, bits 25 32 .bw 7 0, bit 33 .bz 5,
   bit 34 .bz 4, bits 35 39 .rx 4 0, bit 40 .gz 4, bits 41 44 .gy 3 0,
   bits 45 49 .gx 4 0, bit 50 .bz 0, bits 51 54 .gz 3 0, bits 55 60 .bx 5 0,
   bits 61 64 .by 3 0, bits 65 69 .ry 4 0, bit 70 .bz 2, bits 71 75 .rz 4 0,
   bit 76 .bz 3, bits 77 81 .d 4 0]

/-- The layout of mode code 30 (R207). -/
def layout6M30 : List Line6 :=
  [bits 5 10 .rw 5 0, bit 11 .gz 4, bits 12 13 .bz 1 0, bit 14 .by 4,
   bits 15 20 .gw 5 0, bit 21 .gy 5, bit 22 .by 5, bit 23 .bz 2,
   bit 24 .gy 4, bits 25 30 .bw 5 0, bit 31 .gz 5, bit 32 .bz 3,
   bit 33 .bz 5, bit 34 .bz 4, bits 35 40 .rx 5 0, bits 41 44 .gy 3 0,
   bits 45 50 .gx 5 0, bits 51 54 .gz 3 0, bits 55 60 .bx 5 0, bits 61 64 .by 3 0,
   bits 65 70 .ry 5 0, bits 71 76 .rz 5 0, bits 77 81 .d 4 0]

/-- The fourteen layouts (R194 to R207). -/
def refLayout6 : Mode6 → List Line6
  | .m0 => layout6M0
  | .m1 => layout6M1
  | .m2 => layout6M2
  | .m3 => layout6M3
  | .m6 => layout6M6
  | .m7 => layout6M7
  | .m10 => layout6M10
  | .m11 => layout6M11
  | .m14 => layout6M14
  | .m15 => layout6M15
  | .m18 => layout6M18
  | .m22 => layout6M22
  | .m26 => layout6M26
  | .m30 => layout6M30

/-- The descriptor table of R291: mode, subsets, partition, rotation and index mode bits, colour and
alpha bits, P-bits, first and second index width. -/
def refDesc7 : Mode7 → Desc7
  | .m0 => ⟨0, 3, 4, 0, 0, 4, 0, .perEndpoint, 6, 3, none⟩
  | .m1 => ⟨1, 2, 6, 0, 0, 6, 0, .perSubset, 2, 3, none⟩
  | .m2 => ⟨2, 3, 6, 0, 0, 5, 0, .none, 0, 2, none⟩
  | .m3 => ⟨3, 2, 6, 0, 0, 7, 0, .perEndpoint, 4, 2, none⟩
  | .m4 => ⟨4, 1, 0, 2, 1, 5, 6, .none, 0, 2, (some 3)⟩
  | .m5 => ⟨5, 1, 0, 2, 0, 7, 8, .none, 0, 2, (some 2)⟩
  | .m6 => ⟨6, 1, 0, 0, 0, 7, 7, .perEndpoint, 2, 4, none⟩
  | .m7 => ⟨7, 2, 6, 0, 0, 5, 5, .perEndpoint, 4, 2, none⟩

/-- `n` consecutive fields of channel `c`, endpoint 0 first, each of width `w`, from block bit `pos` on
(R292). -/
def channel (c : Fin 4) (n pos w : Nat) : List (Field7 × Span) :=
  ((List.range 6).take n).map fun e => (.comp (Fin.ofNat 6 e) c, ⟨pos + w * e, w⟩)

/-- `n` consecutive P-bits from block bit `pos` on (R292). -/
def pbitFields (n pos : Nat) : List (Field7 × Span) :=
  ((List.range 6).take n).map fun k => (.pbit (Fin.ofNat 6 k), ⟨pos + k, 1⟩)

/-- The layout of mode 0 (R294). -/
def layout7M0 : Layout7 :=
  ⟨[(.part, ⟨1, 4⟩)] ++ channel 0 6 5 4 ++ channel 1 6 29 4 ++
   channel 2 6 53 4 ++ pbitFields 6 77, 83, 0⟩

/-- The layout of mode 1 (R295). -/
def layout7M1 : Layout7 :=
  ⟨[(.part, ⟨2, 6⟩)] ++ channel 0 4 8 6 ++ channel 1 4 32 6 ++
   channel 2 4 56 6 ++ pbitFields 2 80, 82, 0⟩

/-- The layout of mode 2 (R296). -/
def layout7M2 : Layout7 :=
  ⟨[(.part, ⟨3, 6⟩)] ++ channel 0 6 9 5 ++ channel 1 6 39 5 ++
   channel 2 6 69 5, 99, 0⟩

/-- The layout of mode 3 (R297). -/
def layout7M3 : Layout7 :=
  ⟨[(.part, ⟨4, 6⟩)] ++ channel 0 4 10 7 ++ channel 1 4 38 7 ++
   channel 2 4 66 7 ++ pbitFields 4 94, 98, 0⟩

/-- The layout of mode 4 (R298). -/
def layout7M4 : Layout7 :=
  ⟨[(.rot, ⟨5, 2⟩), (.idxm, ⟨7, 1⟩)] ++ channel 0 2 8 5 ++ channel 1 2 18 5 ++
   channel 2 2 28 5 ++ channel 3 2 38 6, 50, 81⟩

/-- The layout of mode 5 (R299). -/
def layout7M5 : Layout7 :=
  ⟨[(.rot, ⟨6, 2⟩)] ++ channel 0 2 8 7 ++ channel 1 2 22 7 ++
   channel 2 2 36 7 ++ channel 3 2 50 8, 66, 97⟩

/-- The layout of mode 6 (R300). -/
def layout7M6 : Layout7 :=
  ⟨channel 0 2 7 7 ++ channel 1 2 21 7 ++ channel 2 2 35 7 ++
   channel 3 2 49 7 ++ pbitFields 2 63, 65, 0⟩

/-- The layout of mode 7 (R301). -/
def layout7M7 : Layout7 :=
  ⟨[(.part, ⟨8, 6⟩)] ++ channel 0 4 14 5 ++ channel 1 4 34 5 ++
   channel 2 4 54 5 ++ channel 3 4 74 5 ++ pbitFields 4 94, 98, 0⟩

/-- The eight layouts (R294 to R301); `index2Begin` is 0 where the mode has no second array. -/
def refLayout7 : Mode7 → Layout7
  | .m0 => layout7M0
  | .m1 => layout7M1
  | .m2 => layout7M2
  | .m3 => layout7M3
  | .m4 => layout7M4
  | .m5 => layout7M5
  | .m6 => layout7M6
  | .m7 => layout7M7

/-- `UNQ`, unsigned profile (R232). -/
def unqUnsigned (epb : Nat) (comp : Int) : Int :=
  if 15 ≤ epb then comp
  else if comp = 0 then 0
  else if comp = 2 ^ epb - 1 then 0xFFFF
  else (comp * 2 ^ 16 + 0x8000) / 2 ^ epb

/-- The magnitude of `UNQ` in the signed profile, for an endpoint width below 16 (R233). -/
def unqMagnitude (epb : Nat) (m : Int) : Int :=
  if m = 0 then 0
  else if 2 ^ (epb - 1) - 1 ≤ m then 0x7FFF
  else (m * 2 ^ 15 + 0x4000) / 2 ^ (epb - 1)

/-- `UNQ`, signed profile (R233). -/
def unqSigned (epb : Nat) (comp : Int) : Int :=
  if 16 ≤ epb then comp
  else if comp < 0 then -unqMagnitude epb (-comp)
  else unqMagnitude epb comp

/-- `UNQ` (R231 to R233). -/
def refUnq (signed : Bool) (epb : Nat) (comp : Int) : Int :=
  if signed then unqSigned epb comp else unqUnsigned epb comp

/-- `FINISH` (R236): the half pattern, by integer operations alone. -/
def refFinish (signed : Bool) (v : Int) : Half :=
  if signed then
    if 0 ≤ v then BitVec.ofInt 16 (v * 31 / 32) else 0x8000#16 ||| BitVec.ofInt 16 (-v * 31 / 32)
  else BitVec.ofInt 16 (v * 31 / 64)

/-- The reference configuration: every parameter of R6 at the reference value of its rule. -/
def refConfig : Config where
  p2Bc7 p i := Fin.ofNat 2 (tableEntry p2Rows p.val i)
  p2Bc6h p i := Fin.ofNat 2 (tableEntry (p2Rows.take 32) p.val i)
  p3Bc7 p i := Fin.ofNat 3 (tableEntry p3Rows p.val i)
  a2Bc7 p := Fin.ofNat 16 (a2Entries.getD p.val 0)
  a2Bc6h p := Fin.ofNat 16 ((a2Entries.take 32).getD p.val 0)
  a3aBc7 p := Fin.ofNat 16 (a3aEntries.getD p.val 0)
  a3bBc7 p := Fin.ofNat 16 (a3bEntries.getD p.val 0)
  w2 i := weights2.getD i.val 0
  w3 i := weights3.getD i.val 0
  w4 i := weights4.getD i.val 0
  desc6 := refDesc6
  layout6 := refLayout6
  desc7 := refDesc7
  layout7 := refLayout7
  unq := refUnq
  finish := refFinish
  magenta := ⟨0x3C00#16, 0x0000#16, 0x3C00#16⟩

end Sys2Proof
end

