-- ==== Sys2Proof/Machine/Partition.lean ====
section
/-! DEFINITION. PartitionTables (spec/41_partition_tables.md): the subset of a pixel, the anchors, and
the width and offset of a pixel's index field, over any configuration. -/

namespace Sys2Proof

/-- The table entry behind `subsetOf` (R158): 0 with one subset, else the pixel's entry in the row of the
partition id. -/
def subsetAt (g : Config) (fmt : Format) (ns : Nat) (p : BitVec 6) (i : Pixel) : Fin 3 :=
  match fmt, ns with
  | .bc6h, 2 => (g.p2Bc6h (p.setWidth 5).toFin i).castLE (by decide)
  | .bc7, 2 => (g.p2Bc7 p.toFin i).castLE (by decide)
  | .bc7, 3 => g.p3Bc7 p.toFin i
  | _, _ => 0

/-- `anchors(F, ns, p)`: pixel 0, and the designated pixel of each other subset (R159). -/
def anchors (g : Config) (fmt : Format) (ns : Nat) (p : BitVec 6) : List Pixel :=
  match fmt, ns with
  | .bc6h, 2 => [0, g.a2Bc6h (p.setWidth 5).toFin]
  | .bc7, 2 => [0, g.a2Bc7 p.toFin]
  | .bc7, 3 => [0, g.a3aBc7 p.toFin, g.a3bBc7 p.toFin]
  | _, _ => [0]

/-- Whether pixel `i` is an anchor (R159). -/
def isAnchor (g : Config) (fmt : Format) (ns : Nat) (p : BitVec 6) (i : Nat) : Bool :=
  (anchors g fmt ns p).any fun a => a.val == i

/-- The width behind `indexBitWidth` (R160): one bit fewer at an anchor. -/
def widthAt (g : Config) (fmt : Format) (ns : Nat) (p : BitVec 6) (nom i : Nat) : Nat :=
  if isAnchor g fmt ns p i then nom - 1 else nom

/-- The offset behind `indexBitOffset` (R161): the sum of the widths of the earlier pixels. -/
def offsetAt (g : Config) (fmt : Format) (ns : Nat) (p : BitVec 6) (nom : Nat) : Nat → Nat
  | 0 => 0
  | i + 1 => offsetAt g fmt ns p nom i + widthAt g fmt ns p nom i

/-- Query legality, which is also the domain of the three derived functions (R158, R166); `needNom` says
that a nominal width is needed. -/
def legalQuery (needNom : Bool) (fmt : Format) (ns : Nat) (p : BitVec 6) (nom : Nat) : Bool :=
  (ns == 1 || ns == 2 || ns == 3)
    && !(ns == 3 && fmt == .bc6h)
    && (ns == 1 || fmt == .bc7 || p.toNat ≤ 31)
    && (!needNom || 1 ≤ nom)

/-- `subsetOf` (R158), without a value outside its domain. -/
def subsetOf (g : Config) (fmt : Format) (ns : Nat) (p : BitVec 6) (i : Pixel) : Option Nat :=
  if legalQuery false fmt ns p 0 then some (subsetAt g fmt ns p i).val else none

/-- `indexBitWidth` (R160), without a value outside its domain. -/
def indexBitWidth (g : Config) (fmt : Format) (ns : Nat) (p : BitVec 6) (nom : Nat) (i : Pixel) :
    Option Nat :=
  if legalQuery true fmt ns p nom then some (widthAt g fmt ns p nom i.val) else none

/-- `indexBitOffset` (R161), without a value outside its domain. -/
def indexBitOffset (g : Config) (fmt : Format) (ns : Nat) (p : BitVec 6) (nom : Nat) (i : Pixel) :
    Option Nat :=
  if legalQuery true fmt ns p nom then some (offsetAt g fmt ns p nom i.val) else none

/-! ## Index arrays in a block (R103) -/

/-- Where the index of every pixel of one array lies: the first bit, and the tables' arguments. -/
structure IndexArray where
  fmt : Format
  ns : Nat
  part : BitVec 6
  nom : Nat
  first : Nat
deriving DecidableEq, Repr

/-- The stored width of pixel `i`'s index. -/
def IndexArray.width (g : Config) (a : IndexArray) (i : Pixel) : Nat :=
  widthAt g a.fmt a.ns a.part a.nom i.val

/-- The first block bit of pixel `i`'s index. -/
def IndexArray.pos (g : Config) (a : IndexArray) (i : Pixel) : Nat :=
  a.first + offsetAt g a.fmt a.ns a.part a.nom i.val

/-- The indices of a block, zero-extended (R229, R328). -/
def IndexArray.read (g : Config) (a : IndexArray) (b : Block) : IdxFile :=
  Vector.ofFn fun i => (memRead b (a.pos g i) (a.width g i)).setWidth 4

/-- The placements of the sixteen indices (R262). -/
def IndexArray.placements (g : Config) (a : IndexArray) (idx : IdxFile) : List Placement :=
  (List.finRange 16).map fun i => ⟨a.pos g i, a.width g i, idx[i].setWidth 64⟩

/-- Whether every index fits its field, an anchor's in one bit fewer (R260, R350). -/
def IndexArray.fits (g : Config) (a : IndexArray) (idx : IdxFile) : Bool :=
  decide (∀ i : Pixel, idx[i].toNat < 2 ^ a.width g i)

end Sys2Proof
end

