-- ==== Sys2Proof/WellFormed.lean ====
section
/-! DEFINITION. When an instruction is well formed: every operand fits its field, and an operand the
mode does not have is zero. A command word has no operand (R91); a block's operands are the fields of its
mode's layout (R209 (b), R303). -/

namespace Sys2Proof

/-- The width of component `c` of endpoint `e` in a BC6H block; 0 where the mode stores none (R191). -/
def compWidth6 (d : Desc6) (e : Fin 6) (c : Fin 4) : Nat :=
  if c = 3 ∨ 2 * d.ns ≤ e.val then 0 else if e = 0 then d.epb else d.db c

/-- The width of component `c` of endpoint `e` in a BC7 block; 0 where the mode stores none (R291). -/
def compWidth7 (d : Desc7) (e : Fin 6) (c : Fin 4) : Nat :=
  if 2 * d.ns ≤ e.val then 0 else if c = 3 then d.ab else d.cb

/-- The index array of a BC6H block of descriptor `d` (R192, R229). -/
def indexArray6 (d : Desc6) (part : BitVec 6) : IndexArray :=
  ⟨.bc6h, d.ns, part, d.nom, d.indexBegin⟩

/-- The first index array of a BC7 block (R328). -/
def indexArray7 (d : Desc7) (l : Layout7) (part : BitVec 6) : IndexArray :=
  ⟨.bc7, d.ns, part, d.ib, l.indexBegin⟩

/-- The second index array of a BC7 block of nominal width `ib2`: always one subset (R292, R328). -/
def indexArray72 (l : Layout7) (ib2 : Nat) : IndexArray :=
  ⟨.bc7, 1, 0#6, ib2, l.index2Begin⟩

/-- Every component of an endpoint file fits the given widths. -/
def compsFit (w : Fin 6 → Fin 4 → Nat) (raw : EpFile) : Bool :=
  decide (∀ (e : Fin 6) (c : Fin 4), (epAt raw e c).toNat < 2 ^ w e c)

/-- The operands of a BC6H block of mode `m` fit their fields (R209). -/
def wf6 (g : Config) (m : Mode6) (f : Fields6) : Bool :=
  let d := g.desc6 m
  compsFit (compWidth6 d) f.raw
    && (d.ns == 2 || f.part == 0#5)
    && (indexArray6 d (f.part.setWidth 6)).fits g f.idx

/-- The operands of a BC7 block of mode `m` fit their fields (R303). -/
def wf7 (g : Config) (m : Mode7) (f : Fields7) : Bool :=
  let d := g.desc7 m
  let l := g.layout7 m
  compsFit (compWidth7 d) f.raw
    && decide (f.part.toNat < 2 ^ d.pb)
    && decide (f.rot.toNat < 2 ^ d.rb)
    && decide (f.idxm.toNat < 2 ^ d.isb)
    && decide (f.pbits.toNat < 2 ^ d.np)
    && (indexArray7 d l f.part).fits g f.idx
    && match d.ib2 with
       | some ib2 => (indexArray72 l ib2).fits g f.idx2
       | none => f.idx2 == Vector.replicate 16 0#4

/-- The instruction is well formed over configuration `g`. -/
def Instr.wf (g : Config) : Instr → Bool
  | .nop | .bfExtract | .bfStore | .ptSubset | .ptIdxWidth | .ptIdxOffset => true
  | .bc6hModeOf | .bc6hUnpackU | .bc6hUnpackS => true
  | .bc6hPackM0 | .bc6hPackM1 | .bc6hPackM2 | .bc6hPackM3 | .bc6hPackM6 | .bc6hPackM7 => true
  | .bc6hPackM10 | .bc6hPackM11 | .bc6hPackM14 | .bc6hPackM15 => true
  | .bc6hPackM18 | .bc6hPackM22 | .bc6hPackM26 | .bc6hPackM30 => true
  | .bc7ModeOf | .bc7Unpack => true
  | .bc7PackM0 | .bc7PackM1 | .bc7PackM2 | .bc7PackM3 => true
  | .bc7PackM4 | .bc7PackM5 | .bc7PackM6 | .bc7PackM7 => true
  | .blk6M0 f => wf6 g .m0 f
  | .blk6M1 f => wf6 g .m1 f
  | .blk6M2 f => wf6 g .m2 f
  | .blk6M3 f => wf6 g .m3 f
  | .blk6M6 f => wf6 g .m6 f
  | .blk6M7 f => wf6 g .m7 f
  | .blk6M10 f => wf6 g .m10 f
  | .blk6M11 f => wf6 g .m11 f
  | .blk6M14 f => wf6 g .m14 f
  | .blk6M15 f => wf6 g .m15 f
  | .blk6M18 f => wf6 g .m18 f
  | .blk6M22 f => wf6 g .m22 f
  | .blk6M26 f => wf6 g .m26 f
  | .blk6M30 f => wf6 g .m30 f
  | .blk6Unknown sel _ => sel == 19#5 || sel == 23#5 || sel == 27#5 || sel == 31#5
  | .blk7M0 f => wf7 g .m0 f
  | .blk7M1 f => wf7 g .m1 f
  | .blk7M2 f => wf7 g .m2 f
  | .blk7M3 f => wf7 g .m3 f
  | .blk7M4 f => wf7 g .m4 f
  | .blk7M5 f => wf7 g .m5 f
  | .blk7M6 f => wf7 g .m6 f
  | .blk7M7 f => wf7 g .m7 f
  | .blk7Reserved _ => true

/-- The instruction is well formed over the reference configuration. -/
def WellFormed (i : Instr) : Bool := i.wf refConfig

end Sys2Proof
end

