-- ==== Sys2Proof/Decode.lean ====
section
/-! DEFINITION. Encodings (spec/30_encoding.md): the decoder of command words (R91 to R94) and of blocks
(R95 to R103), and after it the encoder, written from the same tables. A block's layout, index arrays and
selector are read with `memRead` as every other field is (R62, R66). -/

namespace Sys2Proof

/-- An encoded instruction: a command word, or a block to be read as one of the two formats (R90). A
block does not say its format: the command that reads it does. -/
inductive Code
  | cmd (w : Word32)
  | block6 (b : Block)
  | block7 (b : Block)
deriving DecidableEq, Repr

/-- Why a command word is illegal: the clauses of R94. -/
inductive IllegalWord
  /-- Some bit of 31:10 is 1. -/
  | reservedBits
  /-- OP is 12..15. -/
  | reservedOp
  /-- SIGNED is 1 and OP is not 7. -/
  | signedNotZero
  /-- MODE is not 0 and OP is neither 8 nor 11. -/
  | modeNotZero
  /-- OP is 8 and MODE is none of the 14 BC6H codes. -/
  | noSuchPacker6
  /-- OP is 11 and MODE is above 7. -/
  | noSuchPacker7
deriving DecidableEq, Repr

/-! ## The command word -/

/-- The BC6H mode of a code (R190). -/
def mode6OfCode : Nat → Option Mode6
  | 0 => some .m0
  | 1 => some .m1
  | 2 => some .m2
  | 3 => some .m3
  | 6 => some .m6
  | 7 => some .m7
  | 10 => some .m10
  | 11 => some .m11
  | 14 => some .m14
  | 15 => some .m15
  | 18 => some .m18
  | 22 => some .m22
  | 26 => some .m26
  | 30 => some .m30
  | _ => none

/-- The BC7 mode of a number (R290). -/
def mode7OfNumber : Nat → Option Mode7
  | 0 => some .m0
  | 1 => some .m1
  | 2 => some .m2
  | 3 => some .m3
  | 4 => some .m4
  | 5 => some .m5
  | 6 => some .m6
  | 7 => some .m7
  | _ => none

/-- `CMD[3:0]`, `CMD[8:4]` and `CMD[9]` (R91). -/
def opField (w : Word32) : Nat := (w.extractLsb' 0 4).toNat
def modeField (w : Word32) : Nat := (w.extractLsb' 4 5).toNat
def signedField (w : Word32) : Bool := w.getLsbD 9

/-- The instruction of an OP that takes neither a mode nor a profile (R93). -/
def plainOp : Nat → Option Instr
  | 0 => some .nop
  | 1 => some .bfExtract
  | 2 => some .bfStore
  | 3 => some .ptSubset
  | 4 => some .ptIdxWidth
  | 5 => some .ptIdxOffset
  | 6 => some .bc6hModeOf
  | 9 => some .bc7ModeOf
  | 10 => some .bc7Unpack
  | _ => none

/-- The command decoder: the OP map of R93, every other word rejected by the clause of R94 it meets. -/
def decodeCmd (w : Word32) : Except IllegalWord Instr :=
  let op := opField w
  let mode := modeField w
  let signed := signedField w
  if w.extractLsb' 10 22 ≠ 0#22 then .error .reservedBits
  else if 12 ≤ op then .error .reservedOp
  else if signed = true ∧ op ≠ 7 then .error .signedNotZero
  else if mode ≠ 0 ∧ op ≠ 8 ∧ op ≠ 11 then .error .modeNotZero
  else if op = 7 then .ok (if signed then .bc6hUnpackS else .bc6hUnpackU)
  else if op = 8 then
    match mode6OfCode mode with
    | some m => .ok (.bc6hPack m)
    | none => .error .noSuchPacker6
  else if op = 11 then
    match mode7OfNumber mode with
    | some m => .ok (.bc7Pack m)
    | none => .error .noSuchPacker7
  else
    match plainOp op with
    | some i => .ok i
    | none => .error .reservedOp

/-! ## The block: mode selectors -/

/-- `modeOf6`: a 2-bit selector when `BLK[1] = 0`, else the 5-bit selector; `none` is Unknown (R95, R96,
R221). -/
def modeOf6 (b : Block) : Option Mode6 :=
  if (memRead b 1 1).toNat = 0 then mode6OfCode (memRead b 0 2).toNat
  else mode6OfCode (memRead b 0 5).toNat

/-- The lowest set bit among the bits `m..7` of the block, counted by the fuel `n`. -/
def lowestSet (b : Block) (m : Nat) : Nat → Option Nat
  | 0 => none
  | n + 1 => if (memRead b m 1).toNat = 1 then some m else lowestSet b (m + 1) n

/-- `modeOf7`: "the index of the lowest set bit among bits 0..7 of the block"; `none` is Reserved (R98,
R99, R321). -/
def modeOf7 (b : Block) : Option Mode7 := (lowestSet b 0 8).bind mode7OfNumber

/-! ## The BC6H block -/

/-- The entries of a layout line: an ascending line holds `f[l + (k - a)]` at block bit `k`, a reversed
one `f[h - (k - a)]` (R193). -/
def Line6.entries (l : Line6) : List Entry6 :=
  (List.range (l.last - l.first + 1)).map fun k =>
    ⟨l.first + k, l.field, if l.reversed then l.hi - k else l.lo + k⟩

/-- The entries of a mode's layout. -/
def entries6 (g : Config) (m : Mode6) : List Entry6 := (g.layout6 m).flatMap Line6.entries

/-- The field `f` assembled bit by bit: `f[k] = BLK[b]` for every entry (R101). -/
def gather (es : List Entry6) (b : Block) (f : Field6) : Half :=
  (es.filter fun e => decide (e.field = f)).foldl
    (fun acc e => acc ||| ((memRead b e.bit 1).setWidth 16 <<< e.pos)) 0#16

/-- The operands of a block of live mode `m` (R223, R224, R229). -/
def fields6 (g : Config) (m : Mode6) (b : Block) : Fields6 :=
  let es := entries6 g m
  let part := (gather es b .d).setWidth 5
  { raw := epFile fun e c => gather es b (.comp e c)
    part := part
    idx := (indexArray6 (g.desc6 m) (part.setWidth 6)).read g b }

/-- The decoder of BC6H blocks: every block is a live mode's or Unknown (R96). -/
def decodeBlock6 (g : Config) (b : Block) : Instr :=
  match modeOf6 b with
  | some m => .blk6 m (fields6 g m b)
  | none => .blk6Unknown (b.extractLsb' 0 5) (b.extractLsb' 5 123)

/-! ## The BC7 block -/

/-- The value of a BC7 field, read with one `MemRead`; 0 where the mode has no such field (R102, R293). -/
def readField7 (l : Layout7) (b : Block) (f : Field7) : Word64 :=
  match l.fields.lookup f with
  | some sp => memRead b sp.pos sp.width
  | none => 0#64

/-- The operands of a block of mode `m` (R322 to R324, R328). -/
def fields7 (g : Config) (m : Mode7) (b : Block) : Fields7 :=
  let d := g.desc7 m
  let l := g.layout7 m
  let part := (readField7 l b .part).setWidth 6
  { raw := epFile fun e c => (readField7 l b (.comp e c)).setWidth 16
    part := part
    rot := (readField7 l b .rot).setWidth 2
    idxm := (readField7 l b .idxm).setWidth 1
    pbits := (List.finRange 6).foldl
      (fun acc k => acc ||| ((readField7 l b (.pbit k)).setWidth 6 <<< k.val)) 0#6
    idx := (indexArray7 d l part).read g b
    idx2 := match d.ib2 with
      | some ib2 => (indexArray72 l ib2).read g b
      | none => Vector.replicate 16 0#4 }

/-- The decoder of BC7 blocks: every block is a mode's or Reserved (R99). -/
def decodeBlock7 (g : Config) (b : Block) : Instr :=
  match modeOf7 b with
  | some m => .blk7 m (fields7 g m b)
  | none => .blk7Reserved (b.extractLsb' 8 120)

/-- The decoder: a command word may be illegal, a block never is (R94, R104). -/
def decode (g : Config) : Code → Except IllegalWord Instr
  | .cmd w => decodeCmd w
  | .block6 b => .ok (decodeBlock6 g b)
  | .block7 b => .ok (decodeBlock7 g b)

/-! ## The encoder -/

/-- The command word of OP, MODE and SIGNED (R91). -/
def cmdWord (op mode : Nat) (signed : Bool) : Word32 :=
  BitVec.ofNat 32 (op + 16 * mode + if signed then 512 else 0)

/-- The value of a BC6H field among the operands. -/
def value6 (f : Fields6) : Field6 → Half
  | .comp e c => epAt f.raw e c
  | .d => f.part.setWidth 16

/-- The placements of the layout entries: `B[b] <- f[j]` (R260). -/
def scatter (es : List Entry6) (f : Fields6) : List Placement :=
  es.map fun e => ⟨e.bit, 1, (value6 f e.field >>> e.pos).setWidth 64⟩

/-- The block of live mode `m` with the operands `f`: the placement half of R260. -/
def encodeBlock6 (g : Config) (m : Mode6) (f : Fields6) : Block :=
  let d := g.desc6 m
  placeAll (⟨0, d.selBits, BitVec.ofNat 64 d.code⟩ ::
    (scatter (entries6 g m) f ++ (indexArray6 d (f.part.setWidth 6)).placements g f.idx))

/-- The value of a BC7 field among the operands. -/
def value7 (f : Fields7) : Field7 → Word64
  | .part => f.part.setWidth 64
  | .rot => f.rot.setWidth 64
  | .idxm => f.idxm.setWidth 64
  | .comp e c => (epAt f.raw e c).setWidth 64
  | .pbit k => (f.pbits >>> k.val).setWidth 64

/-- The placements of a second index array, where the mode has one. -/
def secondPlacements (g : Config) (m : Mode7) (idx2 : IdxFile) : List Placement :=
  match (g.desc7 m).ib2 with
  | some ib2 => (indexArray72 (g.layout7 m) ib2).placements g idx2
  | none => []

/-- The block of mode `m` with the operands `f`: the placement half of R350. -/
def encodeBlock7 (g : Config) (m : Mode7) (f : Fields7) : Block :=
  let d := g.desc7 m
  let l := g.layout7 m
  placeAll (⟨d.number, 1, 1#64⟩ ::
    (l.fields.map (fun x => ⟨x.2.pos, x.2.width, value7 f x.1⟩)
      ++ (indexArray7 d l f.part).placements g f.idx
      ++ secondPlacements g m f.idx2))

/-- The encoder: the command word of R93, or the block. -/
def encode (g : Config) : Instr → Code
  | .nop => .cmd (cmdWord 0 0 false)
  | .bfExtract => .cmd (cmdWord 1 0 false)
  | .bfStore => .cmd (cmdWord 2 0 false)
  | .ptSubset => .cmd (cmdWord 3 0 false)
  | .ptIdxWidth => .cmd (cmdWord 4 0 false)
  | .ptIdxOffset => .cmd (cmdWord 5 0 false)
  | .bc6hModeOf => .cmd (cmdWord 6 0 false)
  | .bc6hUnpackU => .cmd (cmdWord 7 0 false)
  | .bc6hUnpackS => .cmd (cmdWord 7 0 true)
  | .bc6hPackM0 => .cmd (cmdWord 8 0 false)
  | .bc6hPackM1 => .cmd (cmdWord 8 1 false)
  | .bc6hPackM2 => .cmd (cmdWord 8 2 false)
  | .bc6hPackM3 => .cmd (cmdWord 8 3 false)
  | .bc6hPackM6 => .cmd (cmdWord 8 6 false)
  | .bc6hPackM7 => .cmd (cmdWord 8 7 false)
  | .bc6hPackM10 => .cmd (cmdWord 8 10 false)
  | .bc6hPackM11 => .cmd (cmdWord 8 11 false)
  | .bc6hPackM14 => .cmd (cmdWord 8 14 false)
  | .bc6hPackM15 => .cmd (cmdWord 8 15 false)
  | .bc6hPackM18 => .cmd (cmdWord 8 18 false)
  | .bc6hPackM22 => .cmd (cmdWord 8 22 false)
  | .bc6hPackM26 => .cmd (cmdWord 8 26 false)
  | .bc6hPackM30 => .cmd (cmdWord 8 30 false)
  | .bc7ModeOf => .cmd (cmdWord 9 0 false)
  | .bc7Unpack => .cmd (cmdWord 10 0 false)
  | .bc7PackM0 => .cmd (cmdWord 11 0 false)
  | .bc7PackM1 => .cmd (cmdWord 11 1 false)
  | .bc7PackM2 => .cmd (cmdWord 11 2 false)
  | .bc7PackM3 => .cmd (cmdWord 11 3 false)
  | .bc7PackM4 => .cmd (cmdWord 11 4 false)
  | .bc7PackM5 => .cmd (cmdWord 11 5 false)
  | .bc7PackM6 => .cmd (cmdWord 11 6 false)
  | .bc7PackM7 => .cmd (cmdWord 11 7 false)
  | .blk6M0 f => .block6 (encodeBlock6 g .m0 f)
  | .blk6M1 f => .block6 (encodeBlock6 g .m1 f)
  | .blk6M2 f => .block6 (encodeBlock6 g .m2 f)
  | .blk6M3 f => .block6 (encodeBlock6 g .m3 f)
  | .blk6M6 f => .block6 (encodeBlock6 g .m6 f)
  | .blk6M7 f => .block6 (encodeBlock6 g .m7 f)
  | .blk6M10 f => .block6 (encodeBlock6 g .m10 f)
  | .blk6M11 f => .block6 (encodeBlock6 g .m11 f)
  | .blk6M14 f => .block6 (encodeBlock6 g .m14 f)
  | .blk6M15 f => .block6 (encodeBlock6 g .m15 f)
  | .blk6M18 f => .block6 (encodeBlock6 g .m18 f)
  | .blk6M22 f => .block6 (encodeBlock6 g .m22 f)
  | .blk6M26 f => .block6 (encodeBlock6 g .m26 f)
  | .blk6M30 f => .block6 (encodeBlock6 g .m30 f)
  | .blk6Unknown sel rest => .block6 (rest ++ sel)
  | .blk7M0 f => .block7 (encodeBlock7 g .m0 f)
  | .blk7M1 f => .block7 (encodeBlock7 g .m1 f)
  | .blk7M2 f => .block7 (encodeBlock7 g .m2 f)
  | .blk7M3 f => .block7 (encodeBlock7 g .m3 f)
  | .blk7M4 f => .block7 (encodeBlock7 g .m4 f)
  | .blk7M5 f => .block7 (encodeBlock7 g .m5 f)
  | .blk7M6 f => .block7 (encodeBlock7 g .m6 f)
  | .blk7M7 f => .block7 (encodeBlock7 g .m7 f)
  | .blk7Reserved rest => .block7 (rest ++ 0#8)

/-! ## The table's words (the host's interface) -/

/-- The format in which a table row of `nbits` bits, given as the number `w`, is read. A row of 32 bits
is a command word. A block row gives the bits of its selector alone and no format, which in the engine
the reading command supplies (R90, R104): a lone byte that is the whole unary selector of a BC7 mode 2 to
7, and any selector of two bytes, is read as BC7, every other as BC6H. DESIGN CHOICE, unsafe: log
entry 3. -/
def tableCode (nbits w : Nat) : Code :=
  if nbits = 32 then .cmd (BitVec.ofNat 32 w)
  else if nbits = 16 ∨ w ∈ [0x04, 0x08, 0x10, 0x20, 0x40, 0x80] then .block7 (BitVec.ofNat 128 w)
  else .block6 (BitVec.ofNat 128 w)

/-- The instruction the decoder reads from a table row's bits, the bits above `nbits` being zero. -/
def decodeTableWord (nbits w : Nat) : Option Instr :=
  match decode refConfig (tableCode nbits (w % 2 ^ nbits)) with
  | .ok i => some i
  | .error _ => none

end Sys2Proof
end

