-- ==== Sys2Proof/Machine/Interpolation.lean ====
section
/-! DEFINITION. The shared interpolation primitive (spec/42_interpolation.md), used verbatim by both
codecs: per lane, per pixel, with no interaction (R182). -/

namespace Sys2Proof.Machine

/-- The weight of an index: table `W2`, `W3` or `W4`, keyed by the index bit-count (R180). -/
def weight (g : Config) (n : Nat) (idx : BitVec 4) : Nat :=
  match n with
  | 2 => g.w2 (Fin.ofNat 4 idx.toNat)
  | 3 => g.w3 (Fin.ofNat 8 idx.toNat)
  | _ => g.w4 idx.toFin

/-- `interp(e0, e1, idx, n) = ((64 - w) e0 + w e1 + 32) >> 6`, the floor shift (R9, R181). -/
def interp (g : Config) (e0 e1 : Int) (idx : BitVec 4) (n : Nat) : Int :=
  ((64 - (weight g n idx : Int)) * e0 + (weight g n idx : Int) * e1 + 32) / 64

/-- The first and the second endpoint of a subset (R32). -/
def firstEndpoint (sub : Fin 3) : Fin 6 := ⟨2 * sub.val, by omega⟩
def secondEndpoint (sub : Fin 3) : Fin 6 := ⟨2 * sub.val + 1, by omega⟩

/-- A texel of four 16-bit lanes: R lowest, then G, B, A (R34). -/
def texel (r g b a : Half) : Word64 := a ++ b ++ g ++ r

end Sys2Proof.Machine
end

