-- ==== Sys2Proof/Machine/State.lean ====
section
/-! DEFINITION. The state of one engine with its host (spec/10_state.md R20): every register of the
table of R20, under its own name and width, and the two fields of the model's own that stand for the
host, the transactions it has still to issue and the values its reads have returned. There is no program
counter, no memory beyond the block held in `BLK_LO` and `BLK_HI`, and no hidden state (R23, R35, R60). -/

namespace Sys2Proof.Machine

/-- One host transaction (spec/49_host_and_system.md R380). -/
inductive HostOp
  /-- `WR(n, v)`: write the value `v` to register number `n`. -/
  | wr (n : BitVec 8) (v : Word64)
  /-- `RD(n)`: read register number `n`. -/
  | rd (n : BitVec 8)
deriving DecidableEq, Repr

/-- The engine's registers (R20) and the host's stream. -/
structure State where
  /-- `BLK_LO` (0x00): block bits 63..0. -/
  blkLo : Word64
  /-- `BLK_HI` (0x01): block bits 127..64. -/
  blkHi : Word64
  /-- `CMD` (0x02): the last command word written (R24). -/
  cmd : Word32
  /-- `STATUS` (0x03): the outcome of the last command (R25). -/
  status : Word32
  /-- `PART` (0x04): the partition set id (R26). -/
  part : BitVec 6
  /-- `PBITS` (0x05): the BC7 P-bits (R27). -/
  pbits : BitVec 6
  /-- `ROT` (0x06): the BC7 rotation field (R28). -/
  rot : BitVec 2
  /-- `IDXM` (0x07): the BC7 mode 4 index-mode bit (R29). -/
  idxm : BitVec 1
  /-- `BF_INDEX` (0x08): the bit index operand (R30). -/
  bfIndex : BitVec 8
  /-- `BF_COUNT` (0x09): the bit count operand (R30). -/
  bfCount : BitVec 7
  /-- `BF_VALUE` (0x0A): the value operand or result (R30). -/
  bfValue : Word64
  /-- `PTQ` (0x0B): the partition-table query operand (R31). -/
  ptq : BitVec 10
  /-- `PTR` (0x0C): the partition-table query result (R31). -/
  ptr : BitVec 8
  /-- `EP[e][c]` (0x10 + 4e + c): the endpoint components (R32). -/
  ep : EpFile
  /-- `IDX[i]` (0x30 + i): the first index array (R33). -/
  idx : IdxFile
  /-- `IDX2[i]` (0x40 + i): the second index array (R33). -/
  idx2 : IdxFile
  /-- `TEX[i]` (0x50 + i): the decoded texels (R34). -/
  tex : TexFile
  /-- The MODEL's own: the transactions the host has still to issue, next first (R105, R388).
  DESIGN CHOICE, log entry 2. -/
  script : List HostOp
  /-- The MODEL's own: the values the host's reads have returned, oldest first; what a run observes
  (R388). DESIGN CHOICE, log entry 2. -/
  readLog : List Word64
deriving DecidableEq, Repr

/-- The machine right after reset: every register zero (R37, R440), the host having issued nothing (log
entries 2 and 8). -/
def State.reset : State where
  blkLo := 0#64
  blkHi := 0#64
  cmd := 0#32
  status := 0#32
  part := 0#6
  pbits := 0#6
  rot := 0#2
  idxm := 0#1
  bfIndex := 0#8
  bfCount := 0#7
  bfValue := 0#64
  ptq := 0#10
  ptr := 0#8
  ep := Vector.replicate 24 0#16
  idx := Vector.replicate 16 0#4
  idx2 := Vector.replicate 16 0#4
  tex := Vector.replicate 16 0#64
  script := []
  readLog := []

/-- Why the machine stops with a fault: never, so there is no constructor. The faults of
spec/60_exceptions.md R400 are no stops: a faulting command ends with a code in `STATUS` and the engine
is ready for the next transaction (R405), so `raise` of Machine/Ops.lean answers a next state (DEDUCED, log
entry 5). Safe: nothing raises one. -/
inductive Fault
deriving DecidableEq, Repr

/-- Why the machine refuses an instruction. -/
inductive Refusal
  /-- An instruction without a meaning, by its mnemonic. Raised by no arm: every row of the opcode table
  has its meaning. Safe: a refusal proves nothing about the hardware. -/
  | notModelled (mnemonic : String)
deriving DecidableEq, Repr

/-- The outcome of a step or of an instruction. -/
abbrev Result := Host.Outcome State Fault Refusal

end Sys2Proof.Machine
end

