-- ==== Sys2Proof/Machine/Flags.lean ====
section
/-! DEFINITION. The STATUS register, the engine's only flag register (spec/10_state.md R25), and the
fault codes (spec/60_exceptions.md R400). -/

namespace Sys2Proof.Machine

/-- The faults a command can end in (R400). None stops the engine. -/
inductive Err
  /-- BC7.UNPACK of a Reserved block (R401). -/
  | dataFormat
  /-- A pack operand that does not fit its field (R402). -/
  | packContract
  /-- BF.* outside the precondition (R403). -/
  | bitfieldRange
  /-- A word that is none of the 33 legal ones (R404). -/
  | illegalCommand
  /-- A PT.* query of a table or row that does not exist (R414). -/
  | tableRange
deriving DecidableEq, Repr

/-- The code of a fault in `STATUS[ERR]` (R400). -/
def errCode : Err → BitVec 3
  | .dataFormat => 1#3
  | .packContract => 2#3
  | .bitfieldRange => 3#3
  | .illegalCommand => 4#3
  | .tableRange => 5#3

/-- `STATUS[DONE]`. -/
def statusDone (w : Word32) : Bool := w.getLsbD 0

/-- `STATUS[ERR]`. -/
def statusErr (w : Word32) : BitVec 3 := w.extractLsb' 1 3

/-- `STATUS[SENT]`. -/
def statusSent (w : Word32) : Bool := w.getLsbD 4

/-- `STATUS[STICKY]`. -/
def statusSticky (w : Word32) : Bool := w.getLsbD 5

/-- `STATUS[MODE]`. -/
def statusMode (w : Word32) : BitVec 5 := w.extractLsb' 6 5

/-- `STATUS[NS]`. -/
def statusNs (w : Word32) : BitVec 2 := w.extractLsb' 11 2

/-- `status(ERR, SENT, MODE, NS)` over the old word: DONE is 1, STICKY is set by a fault and otherwise
kept, bits 31:13 are 0 (R25). -/
def statusWord (old : Word32) (err : BitVec 3) (sent : Bool) (mode : BitVec 5) (ns : BitVec 2) :
    Word32 :=
  0#19 ++ ns ++ mode ++ BitVec.ofBool (statusSticky old || err != 0#3) ++ BitVec.ofBool sent ++ err
    ++ 1#1

/-- The MODE value reported for BC6H Unknown and for BC7 Reserved (R25). -/
def modeUnknown : BitVec 5 := 31#5
def modeReserved : BitVec 5 := 8#5

end Sys2Proof.Machine
end

