-- ==== Sys2Proof/Machine/Operands.lean ====
section
/-! DEFINITION. The operands of the commands: no command word carries one, so each is read from the
registers (spec/30_encoding.md R91; spec/10_state.md R21, R31, R24). -/

namespace Sys2Proof.Machine

/-- The block: `BLK = BLK_HI * 2^64 + BLK_LO` (R21). -/
def State.blk (s : State) : Block := s.blkHi ++ s.blkLo

/-- `PTQ[0]` = FMT (R31). -/
def queryFormat (q : BitVec 10) : Format := if q.getLsbD 0 then .bc7 else .bc6h

/-- `PTQ[2:1]` = NS. -/
def queryNs (q : BitVec 10) : Nat := (q.extractLsb' 1 2).toNat

/-- `PTQ[6:3]` = PIX. -/
def queryPix (q : BitVec 10) : Pixel := (q.extractLsb' 3 4).toFin

/-- `PTQ[9:7]` = NOM. -/
def queryNom (q : BitVec 10) : Nat := (q.extractLsb' 7 3).toNat

/-- `CMD[SIGNED]`, the profile of a BC6H unpack (R222). -/
def State.signed (s : State) : Bool := signedField s.cmd

/-- `zext_16` of the components of the first `2 ns` endpoints that `used` keeps, the rest zero: the part
of `EP` a mode reads (R260, R350). -/
def keepComps (used : Fin 6 → Fin 4 → Bool) (ep : EpFile) : EpFile :=
  epFile fun e c => if used e c then epAt ep e c else 0#16

end Sys2Proof.Machine
end

