-- ==== Sys2Proof/Machine/Ops.lean ====
section
/-! DEFINITION. The named operations on registers, how a command ends, and `raise`, which is the whole of
taking an exception on this engine: no register is saved, no control is transferred, nothing is masked,
and there is no return (spec/60_exceptions.md R405, R409). -/

namespace Sys2Proof.Machine

/-! ## Register writes -/

/-- `CMD <- w` (R24). -/
def State.setCmd (s : State) (w : Word32) : State := { s with cmd := w }

/-- `STATUS <- w` (R25). -/
def State.setStatus (s : State) (w : Word32) : State := { s with status := w }

/-- `(BLK_HI, BLK_LO) <- b` (R21). -/
def State.setBlk (s : State) (b : Block) : State :=
  { s with blkLo := b.extractLsb' 0 64, blkHi := b.extractLsb' 64 64 }

/-- `BF_VALUE <- v` (R30). -/
def State.setBfValue (s : State) (v : Word64) : State := { s with bfValue := v }

/-- `PTR <- v` (R31). -/
def State.setPtr (s : State) (v : BitVec 8) : State := { s with ptr := v }

/-- The transactions still to come are `t`. -/
def State.setScript (s : State) (t : List HostOp) : State := { s with script := t }

/-- A host read returned `v`. -/
def State.pushRead (s : State) (v : Word64) : State := { s with readLog := s.readLog ++ [v] }

/-- What an unpack writes besides `STATUS`: the texels and every decoded-field register (R237, R331). -/
structure Unpacked where
  tex : TexFile
  ep : EpFile
  part : BitVec 6
  pbits : BitVec 6
  rot : BitVec 2
  idxm : BitVec 1
  idx : IdxFile
  idx2 : IdxFile
deriving DecidableEq, Repr

/-- The register writes of an unpack, committed together (R237, R238, R331). -/
def State.writeUnpacked (s : State) (u : Unpacked) : State :=
  { s with tex := u.tex, ep := u.ep, part := u.part, pbits := u.pbits, rot := u.rot, idxm := u.idxm,
           idx := u.idx, idx2 := u.idx2 }

/-! ## How a command ends -/

/-- `STATUS <- status(ERR = 0, sent, mode, ns)`: the command completed (R25). -/
def State.complete (s : State) (sent : Bool) (mode : BitVec 5) (ns : BitVec 2) : State :=
  s.setStatus (statusWord s.status 0#3 sent mode ns)

/-- `STATUS <- status(ERR = 0, SENT = 0, MODE = 0, NS = 0)`: a command that is no codec command completed
(R25). -/
def State.completePlain (s : State) : State := s.complete false 0#5 0#2

/-- `raise F`: only `STATUS` is written; `MODE` is 8 for DataFormatError and 0 for every other fault
(R405). -/
def State.raise (s : State) (e : Err) : State :=
  s.setStatus (statusWord s.status (errCode e) false
    (if e = .dataFormat then modeReserved else 0#5) 0#2)

/-- The `STATUS[NS]` value of a number of subsets. -/
def nsField (ns : Nat) : BitVec 2 := BitVec.ofNat 2 ns

end Sys2Proof.Machine
end

