-- ==== Sys2Proof/Machine/Bc6hDecode.lean ====
section
/-! DEFINITION. BC6H decode (spec/44_bc6h_decode.md): BC6H.MODEOF, the two unpack commands, and the block
rows, each the pipeline of its mode on the block's fields. Every block decodes: there is no fault (R222). -/

namespace Sys2Proof.Machine

/-! ## The pipeline (R223 to R236) -/

/-- Step 3: component `c` of endpoint `e`, the stored delta sign-extended to its own width, added to
endpoint 0 and masked to `EPB` bits, or the stored value itself in an untransformed mode; 0 where the
mode has no such component (R225, R226, R228). -/
def endpoint6 (d : Desc6) (raw : EpFile) (e : Fin 6) (c : Fin 4) : Half :=
  if c = 3 ∨ 2 * d.ns ≤ e.val then 0#16
  else if e = 0 ∨ d.transformed = false then epAt raw e c
  else BitVec.ofNat 16
    (residue d.epb ((epAt raw 0 c).toNat + sext (d.db c) (epAt raw e c).toNat))

/-- The endpoints after step 3, which `EP` receives (R228). -/
def endpoints6 (d : Desc6) (raw : EpFile) : EpFile := epFile (endpoint6 d raw)

/-- Step 4: the profile's sign extension from `EPB` bits (R227). -/
def profile6 (signed : Bool) (d : Desc6) (v : Half) : Int :=
  if signed then sext d.epb v.toNat else v.toNat

/-- Step 5: an endpoint component unquantized (R231). -/
def unquantized6 (g : Config) (signed : Bool) (d : Desc6) (ep : EpFile) (e : Fin 6) (c : Fin 4) : Int :=
  g.unq signed d.epb (profile6 signed d (epAt ep e c))

/-- Steps 6 and 7: channel `c` of pixel `i`, interpolated in the pixel's subset and finished (R234,
R236). -/
def lane6 (g : Config) (signed : Bool) (d : Desc6) (ep : EpFile) (part : BitVec 6) (idx : IdxFile)
    (i : Pixel) (c : Fin 4) : Half :=
  let sub := subsetAt g .bc6h d.ns part i
  g.finish signed
    (interp g (unquantized6 g signed d ep (firstEndpoint sub) c)
      (unquantized6 g signed d ep (secondEndpoint sub) c) idx[i] d.nom)

/-- Texel `i`: lanes R, G, B, and 0 in lane A (R237). -/
def texel6 (g : Config) (signed : Bool) (d : Desc6) (ep : EpFile) (part : BitVec 6) (idx : IdxFile)
    (i : Pixel) : Word64 :=
  texel (lane6 g signed d ep part idx i 0) (lane6 g signed d ep part idx i 1)
    (lane6 g signed d ep part idx i 2) 0#16

/-- What the unpack of a live block writes (R237). -/
def unpacked6 (g : Config) (m : Mode6) (signed : Bool) (f : Fields6) : Unpacked :=
  let d := g.desc6 m
  let part := f.part.setWidth 6
  let ep := endpoints6 d f.raw
  { tex := Vector.ofFn (texel6 g signed d ep part f.idx)
    ep := ep
    part := part
    pbits := 0#6
    rot := 0#2
    idxm := 0#1
    idx := f.idx
    idx2 := Vector.replicate 16 0#4 }

/-- The unpack of a live block of mode `m` with the fields `f` (R222, R237). -/
def live6 (g : Config) (m : Mode6) (signed : Bool) (f : Fields6) (s : State) : State :=
  (s.writeUnpacked (unpacked6 g m signed f)).complete false
    (BitVec.ofNat 5 (g.desc6 m).code) (nsField (g.desc6 m).ns)

/-- What the sentinel writes: sixteen magenta texels, every decoded-field register zero (R238). -/
def sentinelUnpacked (g : Config) : Unpacked :=
  { tex := Vector.replicate 16 (texel g.magenta.r g.magenta.g g.magenta.b 0#16)
    ep := Vector.replicate 24 0#16
    part := 0#6
    pbits := 0#6
    rot := 0#2
    idxm := 0#1
    idx := Vector.replicate 16 0#4
    idx2 := Vector.replicate 16 0#4 }

/-- The unpack of an Unknown block: a defined value, no fault; `SENT` is 1 and `MODE` 31 (R238, R406). -/
def sentinel6 (g : Config) (s : State) : State :=
  (s.writeUnpacked (sentinelUnpacked g)).complete true modeUnknown 0#2

/-- BC6H `unpack` of the block register, dispatched on its mode selector (R104, R222). -/
def unpack6 (g : Config) (signed : Bool) (s : State) : State :=
  match modeOf6 s.blk with
  | some m => live6 g m signed (fields6 g m s.blk) s
  | none => sentinel6 g s

/-! ## The commands -/

/-- `BC6H.MODEOF`: the mode and its subsets in `STATUS`; Unknown is reported, not a fault (R220). -/
def execBc6hModeOf (s : State) : Result :=
  match modeOf6 s.blk with
  | some m => .next (s.complete false (BitVec.ofNat 5 (refConfig.desc6 m).code)
      (nsField (refConfig.desc6 m).ns))
  | none => .next (s.complete false modeUnknown 0#2)

/-- `BC6H.UNPACK.U`: the unsigned profile (R222). -/
def execBc6hUnpackU (s : State) : Result := .next (unpack6 refConfig false s)

/-- `BC6H.UNPACK.S`: the signed profile (R222). -/
def execBc6hUnpackS (s : State) : Result := .next (unpack6 refConfig true s)

/-! ## The block rows: what an unpack command does with a block of each mode, in the profile of
`CMD[SIGNED]` (R104, R222) -/

/-- `BLK6.M0` (R194). -/
def execBlk6M0 (f : Fields6) (s : State) : Result := .next (live6 refConfig .m0 s.signed f s)

/-- `BLK6.M1` (R195). -/
def execBlk6M1 (f : Fields6) (s : State) : Result := .next (live6 refConfig .m1 s.signed f s)

/-- `BLK6.M2` (R196). -/
def execBlk6M2 (f : Fields6) (s : State) : Result := .next (live6 refConfig .m2 s.signed f s)

/-- `BLK6.M3` (R197). -/
def execBlk6M3 (f : Fields6) (s : State) : Result := .next (live6 refConfig .m3 s.signed f s)

/-- `BLK6.M6` (R198). -/
def execBlk6M6 (f : Fields6) (s : State) : Result := .next (live6 refConfig .m6 s.signed f s)

/-- `BLK6.M7` (R199). -/
def execBlk6M7 (f : Fields6) (s : State) : Result := .next (live6 refConfig .m7 s.signed f s)

/-- `BLK6.M10` (R200). -/
def execBlk6M10 (f : Fields6) (s : State) : Result := .next (live6 refConfig .m10 s.signed f s)

/-- `BLK6.M11` (R201). -/
def execBlk6M11 (f : Fields6) (s : State) : Result := .next (live6 refConfig .m11 s.signed f s)

/-- `BLK6.M14` (R202). -/
def execBlk6M14 (f : Fields6) (s : State) : Result := .next (live6 refConfig .m14 s.signed f s)

/-- `BLK6.M15` (R203). -/
def execBlk6M15 (f : Fields6) (s : State) : Result := .next (live6 refConfig .m15 s.signed f s)

/-- `BLK6.M18` (R204). -/
def execBlk6M18 (f : Fields6) (s : State) : Result := .next (live6 refConfig .m18 s.signed f s)

/-- `BLK6.M22` (R205). -/
def execBlk6M22 (f : Fields6) (s : State) : Result := .next (live6 refConfig .m22 s.signed f s)

/-- `BLK6.M26` (R206). -/
def execBlk6M26 (f : Fields6) (s : State) : Result := .next (live6 refConfig .m26 s.signed f s)

/-- `BLK6.M30` (R207). -/
def execBlk6M30 (f : Fields6) (s : State) : Result := .next (live6 refConfig .m30 s.signed f s)

/-- `BLK6.UNKNOWN`: none of its other 123 bits is read (R208, R238). -/
def execBlk6Unknown (_sel : BitVec 5) (_rest : BitVec 123) (s : State) : Result :=
  .next (sentinel6 refConfig s)

end Sys2Proof.Machine
end

