-- ==== Sys2Proof/Machine/Bc6hPack.lean ====
section
/-! DEFINITION. BC6H pack (spec/45_bc6h_pack.md): the one algorithm of R260, and the fourteen commands.
All contract checks come before any write; the command has no profile (R278). -/

namespace Sys2Proof.Machine

/-- The delta of R261: the difference modulo `2^EPB`, as the integer that `EPB` bits denote. -/
def delta6 (d : Desc6) (e0 ek : Half) : Int :=
  sext d.epb (residue d.epb ((ek.toNat : Int) - e0.toNat))

/-- Whether an integer lies in the signed range of `n` bits. -/
def inSignedRange (n : Nat) (x : Int) : Bool :=
  decide (-(2 ^ (n - 1) : Int) ≤ x ∧ x ≤ 2 ^ (n - 1) - 1)

/-- Whether component `c` of endpoint `e` of the registers can be stored: it fits `EPB` bits, and in a
transformed mode its delta fits the delta width (R260, R261). -/
def storable6 (d : Desc6) (ep : EpFile) (e : Fin 6) (c : Fin 4) : Bool :=
  decide ((epAt ep e c).toNat < 2 ^ d.epb)
    && (e == 0 || !d.transformed || inSignedRange (d.db c) (delta6 d (epAt ep 0 c) (epAt ep e c)))

/-- The stored field of component `c` of endpoint `e`: the component itself, or its delta in two's
complement; 0 where the mode has no such component (R261). -/
def stored6 (d : Desc6) (ep : EpFile) (e : Fin 6) (c : Fin 4) : Half :=
  if c = 3 ∨ 2 * d.ns ≤ e.val then 0#16
  else if e = 0 ∨ d.transformed = false then epAt ep e c
  else BitVec.ofNat 16 (residue (d.db c) (delta6 d (epAt ep 0 c) (epAt ep e c)))

/-- The partition id of the block: `PART` where the mode has two subsets, else 0 (R260). -/
def packPart6 (d : Desc6) (part : BitVec 6) : BitVec 6 := if d.ns = 2 then part else 0#6

/-- The contract checks of R260: every endpoint and delta fits, the partition id fits 5 bits, every index
fits, an anchor's in one bit fewer. Registers the mode does not use are not examined. -/
def contract6 (g : Config) (m : Mode6) (s : State) : Bool :=
  let d := g.desc6 m
  decide (∀ (e : Fin 6) (c : Fin 4), e.val < 2 * d.ns → c ≠ 3 → storable6 d s.ep e c = true)
    && (d.ns != 2 || decide (s.part.toNat ≤ 31))
    && (indexArray6 d (packPart6 d s.part)).fits g s.idx

/-- The fields the packer places (R260). -/
def packFields6 (g : Config) (m : Mode6) (s : State) : Fields6 :=
  let d := g.desc6 m
  { raw := epFile (stored6 d s.ep)
    part := (packPart6 d s.part).setWidth 5
    idx := s.idx }

/-- `BC6H.PACK.M<c>`: the block of the registers' fields, or PackContractError and nothing written
(R260). -/
def pack6 (g : Config) (m : Mode6) (s : State) : State :=
  if contract6 g m s then
    (s.setBlk (encodeBlock6 g m (packFields6 g m s))).complete false
      (BitVec.ofNat 5 (g.desc6 m).code) (nsField (g.desc6 m).ns)
  else s.raise .packContract

/-- `BC6H.PACK.M0` (R264). -/
def execBc6hPackM0 (s : State) : Result := .next (pack6 refConfig .m0 s)

/-- `BC6H.PACK.M1` (R265). -/
def execBc6hPackM1 (s : State) : Result := .next (pack6 refConfig .m1 s)

/-- `BC6H.PACK.M2` (R266). -/
def execBc6hPackM2 (s : State) : Result := .next (pack6 refConfig .m2 s)

/-- `BC6H.PACK.M3` (R267). -/
def execBc6hPackM3 (s : State) : Result := .next (pack6 refConfig .m3 s)

/-- `BC6H.PACK.M6` (R268). -/
def execBc6hPackM6 (s : State) : Result := .next (pack6 refConfig .m6 s)

/-- `BC6H.PACK.M7` (R269). -/
def execBc6hPackM7 (s : State) : Result := .next (pack6 refConfig .m7 s)

/-- `BC6H.PACK.M10` (R270). -/
def execBc6hPackM10 (s : State) : Result := .next (pack6 refConfig .m10 s)

/-- `BC6H.PACK.M11` (R271). -/
def execBc6hPackM11 (s : State) : Result := .next (pack6 refConfig .m11 s)

/-- `BC6H.PACK.M14` (R272). -/
def execBc6hPackM14 (s : State) : Result := .next (pack6 refConfig .m14 s)

/-- `BC6H.PACK.M15` (R273). -/
def execBc6hPackM15 (s : State) : Result := .next (pack6 refConfig .m15 s)

/-- `BC6H.PACK.M18` (R274). -/
def execBc6hPackM18 (s : State) : Result := .next (pack6 refConfig .m18 s)

/-- `BC6H.PACK.M22` (R275). -/
def execBc6hPackM22 (s : State) : Result := .next (pack6 refConfig .m22 s)

/-- `BC6H.PACK.M26` (R276). -/
def execBc6hPackM26 (s : State) : Result := .next (pack6 refConfig .m26 s)

/-- `BC6H.PACK.M30` (R277). -/
def execBc6hPackM30 (s : State) : Result := .next (pack6 refConfig .m30 s)

end Sys2Proof.Machine
end

