-- ==== Sys2Proof/Machine/Bc7Decode.lean ====
section
/-! DEFINITION. BC7 decode (spec/47_bc7_decode.md): BC7.MODEOF, BC7.UNPACK, and the block rows, each the
pipeline of its mode on the block's fields. Only a Reserved block faults (R322). -/

namespace Sys2Proof.Machine

/-! ## The pipeline (R323 to R330) -/

/-- The P-bit of endpoint `e`: its own, its subset's in mode 1, none in modes 2, 4 and 5 (R325). -/
def pbitOf (d : Desc7) (pbits : BitVec 6) (e : Fin 6) : Nat :=
  match d.pbits with
  | .none => 0
  | .perEndpoint => (pbits.getLsbD e.val).toNat
  | .perSubset => (pbits.getLsbD (e.val / 2)).toNat

/-- `prec(c)`: the width of a component with its P-bit (R325). -/
def precision7 (d : Desc7) (c : Fin 4) : Nat :=
  (if c = 3 then d.ab else d.cb) + (if d.pbits = .none then 0 else 1)

/-- Step 3: the component with the P-bit appended as its low bit, in a mode that has P-bits (R325). -/
def appendPbit (d : Desc7) (f : Fields7) (e : Fin 6) (c : Fin 4) : Nat :=
  if d.pbits = .none then (epAt f.raw e c).toNat
  else 2 * (epAt f.raw e c).toNat + pbitOf d f.pbits e

/-- Step 4: `expand(v, n)`, the `n`-bit value with its high-order bits repeated in the low bits of a byte
(R326). -/
def expand (v n : Nat) : Nat :=
  let t := v * 2 ^ (8 - n)
  (t ||| t / 2 ^ n) % 256

/-- Steps 3 to 5: the full 8-bit component, 255 for the alpha of a mode without one (R326, R327). -/
def full7 (d : Desc7) (f : Fields7) (e : Fin 6) (c : Fin 4) : Nat :=
  if c = 3 ∧ d.ab = 0 then 255 else expand (appendPbit d f e c) (precision7 d c)

/-- The indices of one pixel with their widths: one for colour, one for alpha (R328). -/
structure IndexRoles where
  colour : BitVec 4
  colourBits : Nat
  alpha : BitVec 4
  alphaBits : Nat
deriving DecidableEq, Repr

/-- Which index serves colour and which alpha: the one index where there is one array; else the first
for colour and the second for alpha, exchanged by the index mode bit of mode 4 (R328). -/
def indexRoles (d : Desc7) (f : Fields7) (i : Pixel) : IndexRoles :=
  match d.ib2 with
  | none => ⟨f.idx[i], d.ib, f.idx[i], d.ib⟩
  | some ib2 =>
    if 0 < d.isb ∧ f.idxm = 1#1 then ⟨f.idx2[i], ib2, f.idx[i], d.ib⟩
    else ⟨f.idx[i], d.ib, f.idx2[i], ib2⟩

/-- The four channels of a pixel. -/
structure Rgba where
  r : Half
  g : Half
  b : Half
  a : Half
deriving DecidableEq, Repr

/-- Step 6: channel `c` of pixel `i`, interpolated in the pixel's subset (R329). -/
def channel7 (g : Config) (d : Desc7) (f : Fields7) (i : Pixel) (c : Fin 4) : Half :=
  let sub := subsetAt g .bc7 d.ns f.part i
  let r := indexRoles d f i
  let idx := if c = 3 then r.alpha else r.colour
  let bits := if c = 3 then r.alphaBits else r.colourBits
  BitVec.ofInt 16
    (interp g (full7 d f (firstEndpoint sub) c) (full7 d f (secondEndpoint sub) c) idx bits)

/-- Step 7: alpha swapped with R, G or B by rotation 1, 2 or 3 (R330). -/
def rotate (p : Rgba) (rot : BitVec 2) : Rgba :=
  match rot.toNat with
  | 1 => ⟨p.a, p.g, p.b, p.r⟩
  | 2 => ⟨p.r, p.a, p.b, p.g⟩
  | 3 => ⟨p.r, p.g, p.a, p.b⟩
  | _ => p

/-- The decoded pixel `i` (R329, R330). -/
def pixel7 (g : Config) (d : Desc7) (f : Fields7) (i : Pixel) : Rgba :=
  rotate ⟨channel7 g d f i 0, channel7 g d f i 1, channel7 g d f i 2, channel7 g d f i 3⟩ f.rot

/-- Texel `i`: lanes R, G, B, A (R331). -/
def texel7 (g : Config) (d : Desc7) (f : Fields7) (i : Pixel) : Word64 :=
  let p := pixel7 g d f i
  texel p.r p.g p.b p.a

/-- What the unpack of a block of mode `m` writes (R331). -/
def unpacked7 (g : Config) (m : Mode7) (f : Fields7) : Unpacked :=
  { tex := Vector.ofFn (texel7 g (g.desc7 m) f)
    ep := f.raw
    part := f.part
    pbits := f.pbits
    rot := f.rot
    idxm := f.idxm
    idx := f.idx
    idx2 := f.idx2 }

/-- The unpack of a block of mode `m` with the fields `f` (R322, R331). -/
def live7 (g : Config) (m : Mode7) (f : Fields7) (s : State) : State :=
  (s.writeUnpacked (unpacked7 g m f)).complete false
    (BitVec.ofNat 5 (g.desc7 m).number) (nsField (g.desc7 m).ns)

/-- BC7 `unpack` of the block register, dispatched on its mode selector; DataFormatError on a Reserved
block (R104, R322, R332). -/
def unpack7 (g : Config) (s : State) : State :=
  match modeOf7 s.blk with
  | some m => live7 g m (fields7 g m s.blk) s
  | none => s.raise .dataFormat

/-! ## The commands -/

/-- `BC7.MODEOF`: the mode and its subsets in `STATUS`; Reserved is reported, not a fault (R320). -/
def execBc7ModeOf (s : State) : Result :=
  match modeOf7 s.blk with
  | some m => .next (s.complete false (BitVec.ofNat 5 (refConfig.desc7 m).number)
      (nsField (refConfig.desc7 m).ns))
  | none => .next (s.complete false modeReserved 0#2)

/-- `BC7.UNPACK` (R322). -/
def execBc7Unpack (s : State) : Result := .next (unpack7 refConfig s)

/-! ## The block rows: what BC7.UNPACK does with a block of each mode (R104, R322) -/

/-- `BLK7.M0` (R294). -/
def execBlk7M0 (f : Fields7) (s : State) : Result := .next (live7 refConfig .m0 f s)

/-- `BLK7.M1` (R295). -/
def execBlk7M1 (f : Fields7) (s : State) : Result := .next (live7 refConfig .m1 f s)

/-- `BLK7.M2` (R296). -/
def execBlk7M2 (f : Fields7) (s : State) : Result := .next (live7 refConfig .m2 f s)

/-- `BLK7.M3` (R297). -/
def execBlk7M3 (f : Fields7) (s : State) : Result := .next (live7 refConfig .m3 f s)

/-- `BLK7.M4` (R298). -/
def execBlk7M4 (f : Fields7) (s : State) : Result := .next (live7 refConfig .m4 f s)

/-- `BLK7.M5` (R299). -/
def execBlk7M5 (f : Fields7) (s : State) : Result := .next (live7 refConfig .m5 f s)

/-- `BLK7.M6` (R300). -/
def execBlk7M6 (f : Fields7) (s : State) : Result := .next (live7 refConfig .m6 f s)

/-- `BLK7.M7` (R301). -/
def execBlk7M7 (f : Fields7) (s : State) : Result := .next (live7 refConfig .m7 f s)

/-- `BLK7.RESERVED`: DataFormatError; none of its other 120 bits is read (R302, R332). -/
def execBlk7Reserved (_rest : BitVec 120) (s : State) : Result := .next (s.raise .dataFormat)

end Sys2Proof.Machine
end

