-- ==== Sys2Proof/Machine/Bc7Pack.lean ====
section
/-! DEFINITION. BC7 pack (spec/48_bc7_pack.md): the one algorithm of R350, and the eight commands. All
contract checks come before any write; the packer takes raw fields and P-bits and only places them
(R351). -/

namespace Sys2Proof.Machine

/-- The partition id of the block: `PART` where the mode has a partition field, else 0 (R350). -/
def packPart7 (d : Desc7) (part : BitVec 6) : BitVec 6 := if 0 < d.pb then part else 0#6

/-- The second index array fits, where the mode has one (R350). -/
def secondFits (g : Config) (m : Mode7) (idx2 : IdxFile) : Bool :=
  match (g.desc7 m).ib2 with
  | some ib2 => (indexArray72 (g.layout7 m) ib2).fits g idx2
  | none => true

/-- The contract checks of R350. Registers the mode does not use are not examined. -/
def contract7 (g : Config) (m : Mode7) (s : State) : Bool :=
  let d := g.desc7 m
  (d.pb == 0 || decide (s.part.toNat < 2 ^ d.pb))
    && decide (∀ (e : Fin 6) (c : Fin 4), 0 < compWidth7 d e c →
        (epAt s.ep e c).toNat < 2 ^ compWidth7 d e c)
    && (indexArray7 d (g.layout7 m) (packPart7 d s.part)).fits g s.idx
    && secondFits g m s.idx2

/-- The fields the packer places: the registers the mode uses, 0 for the rest (R350). -/
def packFields7 (g : Config) (m : Mode7) (s : State) : Fields7 :=
  let d := g.desc7 m
  { raw := keepComps (fun e c => decide (0 < compWidth7 d e c)) s.ep
    part := packPart7 d s.part
    rot := if 0 < d.rb then s.rot else 0#2
    idxm := if 0 < d.isb then s.idxm else 0#1
    pbits := s.pbits &&& mask 6 d.np
    idx := s.idx
    idx2 := match d.ib2 with
      | some _ => s.idx2
      | none => Vector.replicate 16 0#4 }

/-- `BC7.PACK.M<m>`: the block of the registers' fields, or PackContractError and nothing written
(R350). -/
def pack7 (g : Config) (m : Mode7) (s : State) : State :=
  if contract7 g m s then
    (s.setBlk (encodeBlock7 g m (packFields7 g m s))).complete false
      (BitVec.ofNat 5 (g.desc7 m).number) (nsField (g.desc7 m).ns)
  else s.raise .packContract

/-- `BC7.PACK.M0` (R353). -/
def execBc7PackM0 (s : State) : Result := .next (pack7 refConfig .m0 s)

/-- `BC7.PACK.M1` (R354). -/
def execBc7PackM1 (s : State) : Result := .next (pack7 refConfig .m1 s)

/-- `BC7.PACK.M2` (R355). -/
def execBc7PackM2 (s : State) : Result := .next (pack7 refConfig .m2 s)

/-- `BC7.PACK.M3` (R356). -/
def execBc7PackM3 (s : State) : Result := .next (pack7 refConfig .m3 s)

/-- `BC7.PACK.M4` (R357). -/
def execBc7PackM4 (s : State) : Result := .next (pack7 refConfig .m4 s)

/-- `BC7.PACK.M5` (R358). -/
def execBc7PackM5 (s : State) : Result := .next (pack7 refConfig .m5 s)

/-- `BC7.PACK.M6` (R359). -/
def execBc7PackM6 (s : State) : Result := .next (pack7 refConfig .m6 s)

/-- `BC7.PACK.M7` (R360). -/
def execBc7PackM7 (s : State) : Result := .next (pack7 refConfig .m7 s)

end Sys2Proof.Machine
end

