-- ==== Sys2Proof/Machine/BitFieldCmds.lean ====
section
/-! DEFINITION. BF.EXTRACT and BF.STORE (spec/40_bitfield.md R133, R134): the precondition is checked
first, so `extract` and `store` are only ever applied inside it. -/

namespace Sys2Proof.Machine

/-- `BF.EXTRACT` (R133). -/
def execBfExtract (s : State) : Result :=
  match extract s.blkLo s.blkHi s.bfIndex.toNat s.bfCount.toNat with
  | some v => .next (s.setBfValue v).completePlain
  | none => .next (s.raise .bitfieldRange)

/-- `BF.STORE` (R134). -/
def execBfStore (s : State) : Result :=
  match store s.blkLo s.blkHi s.bfIndex.toNat s.bfCount.toNat s.bfValue with
  | some (lo, hi) => .next (s.setBlk (hi ++ lo)).completePlain
  | none => .next (s.raise .bitfieldRange)

end Sys2Proof.Machine
end

