-- ==== Sys2Proof/Machine/PartitionCmds.lean ====
section
/-! DEFINITION. PT.SUBSET, PT.IDXWIDTH and PT.IDXOFFSET (spec/41_partition_tables.md R163 to R166): the
query is checked before anything is written, and `PTR` receives the function's value. -/

namespace Sys2Proof.Machine

/-- The end of a query: its answer in `PTR`, or TableRangeError where the function has no value. -/
def State.answerQuery (s : State) : Option Nat → State
  | some v => (s.setPtr (BitVec.ofNat 8 v)).completePlain
  | none => s.raise .tableRange

/-- `PT.SUBSET` (R163). -/
def execPtSubset (s : State) : Result :=
  .next (s.answerQuery
    (subsetOf refConfig (queryFormat s.ptq) (queryNs s.ptq) s.part (queryPix s.ptq)))

/-- `PT.IDXWIDTH` (R164). -/
def execPtIdxWidth (s : State) : Result :=
  .next (s.answerQuery
    (indexBitWidth refConfig (queryFormat s.ptq) (queryNs s.ptq) s.part (queryNom s.ptq)
      (queryPix s.ptq)))

/-- `PT.IDXOFFSET` (R165). -/
def execPtIdxOffset (s : State) : Result :=
  .next (s.answerQuery
    (indexBitOffset refConfig (queryFormat s.ptq) (queryNs s.ptq) s.part (queryNom s.ptq)
      (queryPix s.ptq)))

end Sys2Proof.Machine
end

