-- ==== Sys2Proof/Machine/System.lean ====
section
/-! DEFINITION. NOP (spec/49_host_and_system.md R384). -/

namespace Sys2Proof.Machine

/-- `NOP`: clears `ERR` and `SENT`; `STICKY` keeps its value (R384). -/
def execNop (s : State) : Result := .next s.completePlain

end Sys2Proof.Machine
end

