-- ==== Sys2Proof/Machine/Dispatch.lean ====
section
/-! DEFINITION. The meaning of every instruction: one arm per row of spec/opcode_table.json. -/

namespace Sys2Proof.Machine

def exec (i : Instr) (s : State) : Host.Outcome State Fault Refusal :=
  match i with
  | .nop => Sys2Proof.Machine.execNop s
  | .bfExtract => Sys2Proof.Machine.execBfExtract s
  | .bfStore => Sys2Proof.Machine.execBfStore s
  | .ptSubset => Sys2Proof.Machine.execPtSubset s
  | .ptIdxWidth => Sys2Proof.Machine.execPtIdxWidth s
  | .ptIdxOffset => Sys2Proof.Machine.execPtIdxOffset s
  | .bc6hModeOf => Sys2Proof.Machine.execBc6hModeOf s
  | .bc6hUnpackU => Sys2Proof.Machine.execBc6hUnpackU s
  | .bc6hUnpackS => Sys2Proof.Machine.execBc6hUnpackS s
  | .bc6hPackM0 => Sys2Proof.Machine.execBc6hPackM0 s
  | .bc6hPackM1 => Sys2Proof.Machine.execBc6hPackM1 s
  | .bc6hPackM2 => Sys2Proof.Machine.execBc6hPackM2 s
  | .bc6hPackM3 => Sys2Proof.Machine.execBc6hPackM3 s
  | .bc6hPackM6 => Sys2Proof.Machine.execBc6hPackM6 s
  | .bc6hPackM7 => Sys2Proof.Machine.execBc6hPackM7 s
  | .bc6hPackM10 => Sys2Proof.Machine.execBc6hPackM10 s
  | .bc6hPackM11 => Sys2Proof.Machine.execBc6hPackM11 s
  | .bc6hPackM14 => Sys2Proof.Machine.execBc6hPackM14 s
  | .bc6hPackM15 => Sys2Proof.Machine.execBc6hPackM15 s
  | .bc6hPackM18 => Sys2Proof.Machine.execBc6hPackM18 s
  | .bc6hPackM22 => Sys2Proof.Machine.execBc6hPackM22 s
  | .bc6hPackM26 => Sys2Proof.Machine.execBc6hPackM26 s
  | .bc6hPackM30 => Sys2Proof.Machine.execBc6hPackM30 s
  | .bc7ModeOf => Sys2Proof.Machine.execBc7ModeOf s
  | .bc7Unpack => Sys2Proof.Machine.execBc7Unpack s
  | .bc7PackM0 => Sys2Proof.Machine.execBc7PackM0 s
  | .bc7PackM1 => Sys2Proof.Machine.execBc7PackM1 s
  | .bc7PackM2 => Sys2Proof.Machine.execBc7PackM2 s
  | .bc7PackM3 => Sys2Proof.Machine.execBc7PackM3 s
  | .bc7PackM4 => Sys2Proof.Machine.execBc7PackM4 s
  | .bc7PackM5 => Sys2Proof.Machine.execBc7PackM5 s
  | .bc7PackM6 => Sys2Proof.Machine.execBc7PackM6 s
  | .bc7PackM7 => Sys2Proof.Machine.execBc7PackM7 s
  | .blk6M0 f => Sys2Proof.Machine.execBlk6M0 f s
  | .blk6M1 f => Sys2Proof.Machine.execBlk6M1 f s
  | .blk6M2 f => Sys2Proof.Machine.execBlk6M2 f s
  | .blk6M3 f => Sys2Proof.Machine.execBlk6M3 f s
  | .blk6M6 f => Sys2Proof.Machine.execBlk6M6 f s
  | .blk6M7 f => Sys2Proof.Machine.execBlk6M7 f s
  | .blk6M10 f => Sys2Proof.Machine.execBlk6M10 f s
  | .blk6M11 f => Sys2Proof.Machine.execBlk6M11 f s
  | .blk6M14 f => Sys2Proof.Machine.execBlk6M14 f s
  | .blk6M15 f => Sys2Proof.Machine.execBlk6M15 f s
  | .blk6M18 f => Sys2Proof.Machine.execBlk6M18 f s
  | .blk6M22 f => Sys2Proof.Machine.execBlk6M22 f s
  | .blk6M26 f => Sys2Proof.Machine.execBlk6M26 f s
  | .blk6M30 f => Sys2Proof.Machine.execBlk6M30 f s
  | .blk6Unknown sel rest => Sys2Proof.Machine.execBlk6Unknown sel rest s
  | .blk7M0 f => Sys2Proof.Machine.execBlk7M0 f s
  | .blk7M1 f => Sys2Proof.Machine.execBlk7M1 f s
  | .blk7M2 f => Sys2Proof.Machine.execBlk7M2 f s
  | .blk7M3 f => Sys2Proof.Machine.execBlk7M3 f s
  | .blk7M4 f => Sys2Proof.Machine.execBlk7M4 f s
  | .blk7M5 f => Sys2Proof.Machine.execBlk7M5 f s
  | .blk7M6 f => Sys2Proof.Machine.execBlk7M6 f s
  | .blk7M7 f => Sys2Proof.Machine.execBlk7M7 f s
  | .blk7Reserved rest => Sys2Proof.Machine.execBlk7Reserved rest s

end Sys2Proof.Machine
end

