-- ==== Sys2Proof/Machine/HostPort.lean ====
section
/-! DEFINITION. The register space and the host's accesses to it (spec/10_state.md R20;
spec/49_host_and_system.md R380). No access faults. -/

namespace Sys2Proof.Machine

/-- The registers of R20, by name. -/
inductive Reg
  | blkLo | blkHi | cmd | status | part | pbits | rot | idxm | bfIndex | bfCount | bfValue | ptq | ptr
  | ep (e : Fin 6) (c : Fin 4)
  | idx (i : Pixel)
  | idx2 (i : Pixel)
  | tex (i : Pixel)
deriving DecidableEq, Repr

/-- The number of a register on the host interface (R20). -/
def regNumber : Reg → Nat
  | .blkLo => 0x00
  | .blkHi => 0x01
  | .cmd => 0x02
  | .status => 0x03
  | .part => 0x04
  | .pbits => 0x05
  | .rot => 0x06
  | .idxm => 0x07
  | .bfIndex => 0x08
  | .bfCount => 0x09
  | .bfValue => 0x0A
  | .ptq => 0x0B
  | .ptr => 0x0C
  | .ep e c => 0x10 + 4 * e.val + c.val
  | .idx i => 0x30 + i.val
  | .idx2 i => 0x40 + i.val
  | .tex i => 0x50 + i.val

/-- The registers 0x00 to 0x0C. -/
def lowRegister : Nat → Option Reg
  | 0x00 => some .blkLo
  | 0x01 => some .blkHi
  | 0x02 => some .cmd
  | 0x03 => some .status
  | 0x04 => some .part
  | 0x05 => some .pbits
  | 0x06 => some .rot
  | 0x07 => some .idxm
  | 0x08 => some .bfIndex
  | 0x09 => some .bfCount
  | 0x0A => some .bfValue
  | 0x0B => some .ptq
  | 0x0C => some .ptr
  | _ => none

/-- The register of a number; 0x0D to 0x0F, 0x28 to 0x2F and 0x60 and above do not exist (R20). -/
def regOfNumber (n : BitVec 8) : Option Reg :=
  let k := n.toNat
  if k < 0x10 then lowRegister k
  else if k < 0x28 then some (.ep (Fin.ofNat 6 ((k - 0x10) / 4)) (Fin.ofNat 4 (k - 0x10)))
  else if k < 0x30 then none
  else if k < 0x40 then some (.idx (Fin.ofNat 16 k))
  else if k < 0x50 then some (.idx2 (Fin.ofNat 16 k))
  else if k < 0x60 then some (.tex (Fin.ofNat 16 k))
  else none

/-- Whether the host may write a register (R20, R38). -/
def regWritable : Reg → Bool
  | .status | .ptr | .tex _ => false
  | _ => true

/-- `zext_64(X)`: the value of a register (R380). -/
def readReg (s : State) : Reg → Word64
  | .blkLo => s.blkLo
  | .blkHi => s.blkHi
  | .cmd => s.cmd.setWidth 64
  | .status => s.status.setWidth 64
  | .part => s.part.setWidth 64
  | .pbits => s.pbits.setWidth 64
  | .rot => s.rot.setWidth 64
  | .idxm => s.idxm.setWidth 64
  | .bfIndex => s.bfIndex.setWidth 64
  | .bfCount => s.bfCount.setWidth 64
  | .bfValue => s.bfValue
  | .ptq => s.ptq.setWidth 64
  | .ptr => s.ptr.setWidth 64
  | .ep e c => (epAt s.ep e c).setWidth 64
  | .idx i => s.idx[i].setWidth 64
  | .idx2 i => s.idx2[i].setWidth 64
  | .tex i => s.tex[i]

/-- `X <- v[W-1:0]` for a register the host may write, the high bits of `v` ignored; nothing for one it
may not (R380). For `CMD` this is the storing alone: executing it is `runCommand` of
Machine/Command.lean. -/
def writeReg (s : State) (v : Word64) : Reg → State
  | .blkLo => { s with blkLo := v }
  | .blkHi => { s with blkHi := v }
  | .cmd => s.setCmd (v.setWidth 32)
  | .part => { s with part := v.setWidth 6 }
  | .pbits => { s with pbits := v.setWidth 6 }
  | .rot => { s with rot := v.setWidth 2 }
  | .idxm => { s with idxm := v.setWidth 1 }
  | .bfIndex => { s with bfIndex := v.setWidth 8 }
  | .bfCount => { s with bfCount := v.setWidth 7 }
  | .bfValue => { s with bfValue := v }
  | .ptq => { s with ptq := v.setWidth 10 }
  | .ep e c => { s with ep := s.ep.set (4 * e.val + c.val) (v.setWidth 16) }
  | .idx i => { s with idx := s.idx.set i.val (v.setWidth 4) }
  | .idx2 i => { s with idx2 := s.idx2.set i.val (v.setWidth 4) }
  | .status => s
  | .ptr => s
  | .tex _ => s

/-- `RD(n)`: the register's value, or 0 where `n` names none; no side effect on any register (R380). -/
def hostRead (s : State) (n : BitVec 8) : Word64 :=
  match regOfNumber n with
  | some r => readReg s r
  | none => 0#64

/-- The register write of `WR(n, v)`; no effect where `n` names none (R380). -/
def hostWrite (s : State) (n : BitVec 8) (v : Word64) : State :=
  match regOfNumber n with
  | some r => writeReg s v r
  | none => s

end Sys2Proof.Machine
end

