-- ==== Sys2Proof/Machine/Command.lean ====
section
/-! DEFINITION. How a host transaction acts on the engine, and how a write of `CMD` executes a command
(spec/49_host_and_system.md R380, R382, R383, R385). -/

namespace Sys2Proof.Machine

/-- `WR(0x02, w)`: `w` is stored in `CMD`, then exactly one command runs, the one `w` encodes; an illegal
word is stored and raises IllegalCommand (R382, R385). -/
def runCommand (w : Word32) (s : State) : Result :=
  match decodeCmd w with
  | .ok i => exec i (s.setCmd w)
  | .error _ => .next ((s.setCmd w).raise .illegalCommand)

/-- One host transaction (R380): nothing but a write of `CMD` starts a command (R382). -/
def transact (t : HostOp) (s : State) : Result :=
  match t with
  | .wr n v =>
    if regOfNumber n = some .cmd then runCommand (v.setWidth 32) s else .next (hostWrite s n v)
  | .rd n => .next (s.pushRead (hostRead s n))

/-- The engine with its host at one moment: the next transaction takes effect, in issue order (R68); with
none to come the engine does nothing (R442). -/
def advance (s : State) : Result :=
  match s.script with
  | [] => .next s
  | t :: rest => transact t (s.setScript rest)

/-- A command word at the head of the host's transactions. -/
def State.pushCommand (s : State) (w : Word32) : State :=
  s.setScript (.wr 0x02#8 (w.setWidth 64) :: s.script)

/-- The state whose next transaction runs a code: the command word written to `CMD`; or the block in `BLK`
and the write of the command that unpacks its format, in the unsigned profile for BC6H (R90, R104). -/
def State.withCode (s : State) : Code → State
  | .cmd w => s.pushCommand w
  | .block6 b => (s.setBlk b).pushCommand (cmdWord 7 0 false)
  | .block7 b => (s.setBlk b).pushCommand (cmdWord 10 0 false)

end Sys2Proof.Machine
end

