-- ==== Sys2Proof/Machine/Step.lean ====
section
/-! DEFINITION. The step: one host transaction (spec/00_scope.md R12; spec/49_host_and_system.md R381).
The engine has no program counter and fetches nothing: which command runs next is the host's next write
of `CMD` (spec/10_state.md R23). -/

namespace Sys2Proof.Machine

/-- One step of the engine with its host. -/
def step (s : State) : Host.Outcome State Fault Refusal := advance s

/-- `s` with a table row's bits placed where the next step takes its instruction from: the command word
in the host's next transaction, or the block in `BLK` and the unpack command in the host's next
transaction (log entries 2 and 3). -/
def State.withFetchWord (s : State) (nbits w : Nat) : State :=
  s.withCode (tableCode nbits (w % 2 ^ nbits))

end Sys2Proof.Machine
end

