-- ==== Sys2Proof/Machine/Script.lean ====
section
/-! DEFINITION. Host scripts (spec/30_encoding.md R105, R106): the pseudo-instructions with their
expansions, the encoding of a script, the scripts that perform the source's operations
(spec/49_host_and_system.md R386), and the texels at the boundary (R387). Nothing here adds behaviour. -/

namespace Sys2Proof.Machine

/-- A host program: its transactions in issue order (R105). -/
abbrev Script := List HostOp

/-- `WR <register>, <value>`. -/
def wr (r : Reg) (v : Nat) : HostOp := .wr (BitVec.ofNat 8 (regNumber r)) (BitVec.ofNat 64 v)

/-- `RD <register>`. -/
def rd (r : Reg) : HostOp := .rd (BitVec.ofNat 8 (regNumber r))

/-- A command line, shorthand for `WR CMD, <word>` (R105); a block row is no command line. -/
def command (i : Instr) : Script :=
  match encode refConfig i with
  | .cmd w => [wr .cmd w.toNat]
  | .block6 _ => []
  | .block7 _ => []

/-- The encoding of a script: the (register number, value) pairs of its writes (R105). -/
def scriptEncoding (p : Script) : List (BitVec 8 × Word64) :=
  p.filterMap fun t =>
    match t with
    | .wr n v => some (n, v)
    | .rd _ => none

/-! ## Pseudo-instructions (R106) -/

/-- `LDBLK b0 ... b15`: sixteen bytes in wire order. -/
def ldblk (bs : Vector (BitVec 8) 16) : Script :=
  let b := blockOfBytes bs
  [wr .blkLo (b.extractLsb' 0 64).toNat, wr .blkHi (b.extractLsb' 64 64).toNat]

/-- `SETEP e, r, g, b [, a]`. -/
def setEp (e : Fin 6) (r g b : Nat) (a : Option Nat) : Script :=
  [wr (.ep e 0) r, wr (.ep e 1) g, wr (.ep e 2) b] ++ (a.map fun v => wr (.ep e 3) v).toList

/-- `SETIDX v0 ... v15`. -/
def setIdx (v : IdxFile) : Script := (List.finRange 16).map fun i => wr (.idx i) v[i].toNat

/-- `SETIDX2 v0 ... v15`. -/
def setIdx2 (v : IdxFile) : Script := (List.finRange 16).map fun i => wr (.idx2 i) v[i].toNat

/-- `EXTRACT index, count`. -/
def extractScript (index count : Nat) : Script :=
  [wr .bfIndex index, wr .bfCount count] ++ command .bfExtract ++ [rd .bfValue]

/-- `STORE index, count, value`. -/
def storeScript (index count value : Nat) : Script :=
  [wr .bfIndex index, wr .bfCount count, wr .bfValue value] ++ command .bfStore

/-- `MODEOF6` and `MODEOF7`. -/
def modeOf6Script : Script := command .bc6hModeOf ++ [rd .status]
def modeOf7Script : Script := command .bc7ModeOf ++ [rd .status]

/-- `RD TEX[0] ... RD TEX[15]`. -/
def readTexels : Script := (List.finRange 16).map fun i => rd (.tex i)

/-- `UNPACK6 signed`. -/
def unpack6Script (signed : Bool) : Script :=
  command (if signed then .bc6hUnpackS else .bc6hUnpackU) ++ [rd .status] ++ readTexels

/-- `UNPACK7`. -/
def unpack7Script : Script := command .bc7Unpack ++ [rd .status] ++ readTexels

/-- `RDBLK`. -/
def rdblk : Script := [rd .blkLo, rd .blkHi]

/-! ## The source's operations as scripts (R386) -/

/-- `PTQ` of a query (R31): `F + 2 ns + 8 i + 128 nom`. -/
def queryWord (fmt : Format) (ns pix nom : Nat) : Nat :=
  (if fmt = .bc7 then 1 else 0) + 2 * ns + 8 * pix + 128 * nom

/-- `extract(low, high, index, bitCount)`. -/
def extractOperation (low high : Word64) (index count : Nat) : Script :=
  [wr .blkLo low.toNat, wr .blkHi high.toNat] ++ extractScript index count

/-- `store(low, high, index, bitCount, value)`. -/
def storeOperation (low high : Word64) (index count : Nat) (value : Word64) : Script :=
  [wr .blkLo low.toNat, wr .blkHi high.toNat] ++ storeScript index count value.toNat ++ rdblk

/-- A partition-table query by the command `i`: `subsetOf`, `indexBitWidth` or `indexBitOffset`. -/
def queryOperation (i : Instr) (fmt : Format) (ns p pix nom : Nat) : Script :=
  [wr .part p, wr .ptq (queryWord fmt ns pix nom)] ++ command i ++ [rd .ptr]

/-- `modeOf(block)` of a format. -/
def modeOfOperation (fmt : Format) (bs : Vector (BitVec 8) 16) : Script :=
  ldblk bs ++ (if fmt = .bc6h then modeOf6Script else modeOf7Script)

/-- BC6H `unpack(block, signed)`. -/
def unpack6Operation (bs : Vector (BitVec 8) 16) (signed : Bool) : Script :=
  ldblk bs ++ unpack6Script signed

/-- BC7 `unpack(block)`. -/
def unpack7Operation (bs : Vector (BitVec 8) 16) : Script := ldblk bs ++ unpack7Script

/-- `SETEP` for each of the `2 ns` endpoints of a mode, with the alpha literal where the mode has one. -/
def setEndpoints (ns : Nat) (alpha : Bool) (ep : EpFile) : Script :=
  ((List.finRange 6).filter fun e => decide (e.val < 2 * ns)).flatMap fun e =>
    setEp e (epAt ep e 0).toNat (epAt ep e 1).toNat (epAt ep e 2).toNat
      (if alpha then some (epAt ep e 3).toNat else none)

/-- BC6H `pack<Mode m>(endpoints, partitionId, indices)`. -/
def pack6Operation (m : Mode6) (ep : EpFile) (part : BitVec 6) (idx : IdxFile) : Script :=
  setEndpoints (refDesc6 m).ns false ep ++ [wr .part part.toNat] ++ setIdx idx
    ++ command (.bc6hPack m) ++ [rd .status] ++ rdblk

/-- The mode-specific extras of the BC7 `pack`, chosen by the mode alone: "for modes 4, 5 `WR ROT`,
`SETIDX2 ...`; for mode 4 `WR IDXM`"; no other mode has any. -/
def setExtras7 (m : Mode7) (rot : BitVec 2) (idxm : BitVec 1) (idx2 : IdxFile) : Script :=
  match m with
  | .m4 => [wr .rot rot.toNat] ++ setIdx2 idx2 ++ [wr .idxm idxm.toNat]
  | .m5 => [wr .rot rot.toNat] ++ setIdx2 idx2
  | .m0 | .m1 | .m2 | .m3 | .m6 | .m7 => []

/-- BC7 `pack<Mode m>(partitionId, endpointsPerSubset, pBits, indices, extras)`; an extra that the mode
does not have is not written. -/
def pack7Operation (m : Mode7) (part : BitVec 6) (ep : EpFile) (pbits : BitVec 6) (idx : IdxFile)
    (rot : BitVec 2) (idxm : BitVec 1) (idx2 : IdxFile) : Script :=
  [wr .part part.toNat] ++ setEndpoints (refDesc7 m).ns (decide (0 < (refDesc7 m).ab)) ep
    ++ [wr .pbits pbits.toNat] ++ setIdx idx ++ setExtras7 m rot idxm idx2
    ++ command (.bc7Pack m) ++ [rd .status] ++ rdblk

/-! ## The texels at the boundary (R387) -/

/-- A BC6H texel: the three half patterns of lanes R, G, B. -/
def texelHalf (w : Word64) : RgbHalf :=
  ⟨w.extractLsb' 0 16, w.extractLsb' 16 16, w.extractLsb' 32 16⟩

/-- A BC7 texel: the four bytes R, G, B, A. -/
def texelBytes (w : Word64) : List (BitVec 8) :=
  [w.extractLsb' 0 8, w.extractLsb' 16 8, w.extractLsb' 32 8, w.extractLsb' 48 8]

end Sys2Proof.Machine
end

