-- ==== Sys2Proof/Safety.lean ====
section
/-! DEFINITION. What counts as a safe run, in the terms the statements use: the shapes that STATUS, PTR
and the texels always have (spec/10_state.md R25, R34; spec/44_bc6h_decode.md R239;
spec/70_reset_and_hazards.md R449), and a run in which no command has ended in a fault (R409). After them,
under `Sys2Proof.Spec`, the vocabulary of the statements: the formulas of the spec's rules written once
more, directly over register contents and block bits, without the functions the meanings are built of. -/

namespace Sys2Proof.Machine

/-- The shape of `STATUS` after any run: bits 31:13 zero, ERR at most 5, a current fault also sticky, the
sentinel reported without a fault and with MODE 31, and every other bit zero before the first command
(R25, R400). -/
def StatusShape (w : Word32) : Prop :=
  w.extractLsb' 13 19 = 0#19 ∧
  (statusErr w).toNat ≤ 5 ∧
  (statusErr w ≠ 0#3 → statusSticky w = true) ∧
  (statusSent w = true → statusErr w = 0#3 ∧ statusMode w = modeUnknown ∧ statusNs w = 0#2) ∧
  (statusDone w = false → w = 0#32)

/-- A half pattern that BC6H can produce: 0x0000..0x7BFF, or 0x8000..0xFC00 (R239). -/
def BcHalf (h : Half) : Prop := h.toNat ≤ 0x7BFF ∨ (0x8000 ≤ h.toNat ∧ h.toNat ≤ 0xFC00)

/-- A lane of a texel (R34). -/
def lane (w : Word64) (c : Fin 4) : Half := w.extractLsb' (16 * c.val) 16

/-- A texel that some unpack can have left: three BC6H halves and a zero lane A, or four bytes (R34,
R239, R449). -/
def LegalTexel (w : Word64) : Prop :=
  (BcHalf (lane w 0) ∧ BcHalf (lane w 1) ∧ BcHalf (lane w 2) ∧ lane w 3 = 0#16) ∨
  (∀ c : Fin 4, (lane w c).toNat ≤ 0xFF)

/-- The invariant every step keeps. -/
def EngineInv (s : State) : Prop :=
  StatusShape s.status ∧ s.ptr.toNat ≤ 104 ∧ ∀ i : Pixel, LegalTexel s.tex[i]

/-- No command has ended in a fault since reset (R25, R409). -/
def NoFaultYet (s : State) : Prop := statusSticky s.status = false

/-- The most recent command ended without a fault. -/
def LastCommandOk (s : State) : Prop := statusErr s.status = 0#3

/-- Two engine states are equivalent when every register of R20 is equal (R388). -/
def SameRegisters (s t : State) : Prop :=
  s = { t with script := s.script, readLog := s.readLog }

end Sys2Proof.Machine

namespace Sys2Proof.Spec
open Sys2Proof.Machine

/-! ## The command words (R93, R94) -/

/-- The 33 legal command words. -/
def commandTable : List (Nat × Instr) :=
  [(0x000, .nop), (0x001, .bfExtract), (0x002, .bfStore), (0x003, .ptSubset), (0x004, .ptIdxWidth),
   (0x005, .ptIdxOffset), (0x006, .bc6hModeOf), (0x007, .bc6hUnpackU), (0x207, .bc6hUnpackS),
   (0x009, .bc7ModeOf), (0x00A, .bc7Unpack)] ++
  [(0x008, .bc6hPackM0), (0x018, .bc6hPackM1), (0x028, .bc6hPackM2), (0x038, .bc6hPackM3),
   (0x068, .bc6hPackM6), (0x078, .bc6hPackM7), (0x0A8, .bc6hPackM10), (0x0B8, .bc6hPackM11),
   (0x0E8, .bc6hPackM14), (0x0F8, .bc6hPackM15), (0x128, .bc6hPackM18), (0x168, .bc6hPackM22),
   (0x1A8, .bc6hPackM26), (0x1E8, .bc6hPackM30)] ++
  [(0x00B, .bc7PackM0), (0x01B, .bc7PackM1), (0x02B, .bc7PackM2), (0x03B, .bc7PackM3),
   (0x04B, .bc7PackM4), (0x05B, .bc7PackM5), (0x06B, .bc7PackM6), (0x07B, .bc7PackM7)]

/-- Bits `hi..lo` of a number (R9). -/
def bits (v hi lo : Nat) : Nat := v / 2 ^ lo % 2 ^ (hi + 1 - lo)

/-- The clauses of R94. -/
def IllegalWord (w : Nat) : Prop :=
  bits w 3 0 ∈ [12, 13, 14, 15] ∨
  bits w 31 10 ≠ 0 ∨
  (bits w 9 9 = 1 ∧ bits w 3 0 ≠ 7) ∨
  (bits w 8 4 ≠ 0 ∧ bits w 3 0 ≠ 8 ∧ bits w 3 0 ≠ 11) ∨
  (bits w 3 0 = 8 ∧
    bits w 8 4 ∈ [4, 5, 8, 9, 12, 13, 16, 17, 19, 20, 21, 23, 24, 25, 27, 28, 29, 31]) ∨
  (bits w 3 0 = 11 ∧ 7 < bits w 8 4)

/-! ## The register space (R20) -/

/-- What a read of register number `n` returns: the register zero-extended, 0 where there is none. -/
def registerValue (s : State) (n : Nat) : Nat :=
  match n with
  | 0x00 => s.blkLo.toNat
  | 0x01 => s.blkHi.toNat
  | 0x02 => s.cmd.toNat
  | 0x03 => s.status.toNat
  | 0x04 => s.part.toNat
  | 0x05 => s.pbits.toNat
  | 0x06 => s.rot.toNat
  | 0x07 => s.idxm.toNat
  | 0x08 => s.bfIndex.toNat
  | 0x09 => s.bfCount.toNat
  | 0x0A => s.bfValue.toNat
  | 0x0B => s.ptq.toNat
  | 0x0C => s.ptr.toNat
  | n =>
    if 0x10 ≤ n ∧ n < 0x28 then (s.ep.toList.getD (n - 0x10) 0#16).toNat
    else if 0x30 ≤ n ∧ n < 0x40 then (s.idx.toList.getD (n - 0x30) 0#4).toNat
    else if 0x40 ≤ n ∧ n < 0x50 then (s.idx2.toList.getD (n - 0x40) 0#4).toNat
    else if 0x50 ≤ n ∧ n < 0x60 then (s.tex.toList.getD (n - 0x50) 0#64).toNat
    else 0

/-- The width of a register the host may write; 0 for a read-only register and for a number that names
no register. -/
def writableWidth (n : Nat) : Nat :=
  match n with
  | 0x00 => 64
  | 0x01 => 64
  | 0x02 => 32
  | 0x04 => 6
  | 0x05 => 6
  | 0x06 => 2
  | 0x07 => 1
  | 0x08 => 8
  | 0x09 => 7
  | 0x0A => 64
  | 0x0B => 10
  | n =>
    if 0x10 ≤ n ∧ n < 0x28 then 16
    else if 0x30 ≤ n ∧ n < 0x50 then 4
    else 0

/-! ## Which registers a command may write (R20), and in which faults it may end (R407) -/

/-- The commands and block rows that unpack. -/
def unpacks : Instr → Bool
  | .bc6hUnpackU | .bc6hUnpackS | .bc7Unpack => true
  | .blk6M0 _ | .blk6M1 _ | .blk6M2 _ | .blk6M3 _ | .blk6M6 _ | .blk6M7 _ | .blk6M10 _ => true
  | .blk6M11 _ | .blk6M14 _ | .blk6M15 _ | .blk6M18 _ | .blk6M22 _ | .blk6M26 _ | .blk6M30 _ => true
  | .blk6Unknown _ _ => true
  | .blk7M0 _ | .blk7M1 _ | .blk7M2 _ | .blk7M3 _ | .blk7M4 _ | .blk7M5 _ | .blk7M6 _ => true
  | .blk7M7 _ | .blk7Reserved _ => true
  | _ => false

/-- The commands that pack. -/
def packs : Instr → Bool
  | .bc6hPackM0 | .bc6hPackM1 | .bc6hPackM2 | .bc6hPackM3 | .bc6hPackM6 | .bc6hPackM7 => true
  | .bc6hPackM10 | .bc6hPackM11 | .bc6hPackM14 | .bc6hPackM15 | .bc6hPackM18 => true
  | .bc6hPackM22 | .bc6hPackM26 | .bc6hPackM30 => true
  | .bc7PackM0 | .bc7PackM1 | .bc7PackM2 | .bc7PackM3 => true
  | .bc7PackM4 | .bc7PackM5 | .bc7PackM6 | .bc7PackM7 => true
  | _ => false

/-- The values `STATUS[ERR]` may have after an instruction (R407). -/
def errorCodes (i : Instr) : List Nat :=
  if packs i then [0, 2]
  else
    match i with
    | .bfExtract | .bfStore => [0, 3]
    | .ptSubset | .ptIdxWidth | .ptIdxOffset => [0, 5]
    | .bc7Unpack => [0, 1]
    | .blk7Reserved _ => [1]
    | _ => [0]

/-! ## Tables, indices and interpolation (R158 to R161, R180, R181) -/

/-- The legal queries of R166. -/
def LegalQuery (needNom : Bool) (s : State) : Prop :=
  queryNs s.ptq ∈ [1, 2, 3] ∧
  ¬(queryNs s.ptq = 3 ∧ queryFormat s.ptq = .bc6h) ∧
  (queryNs s.ptq = 1 ∨ queryFormat s.ptq = .bc7 ∨ s.part.toNat ≤ 31) ∧
  (needNom = true → 1 ≤ queryNom s.ptq)

/-- The subset of pixel `i` among `ns`, read in the printed rows (R158). -/
def subset (ns part : Nat) (i : Pixel) : Nat :=
  if ns = 2 then tableEntry p2Rows part i
  else if ns = 3 then tableEntry p3Rows part i
  else 0

/-- The anchors of a partition (R159). -/
def anchorPixels (ns part : Nat) : List Nat :=
  if ns = 2 then [0, a2Entries.getD part 0]
  else if ns = 3 then [0, a3aEntries.getD part 0, a3bEntries.getD part 0]
  else [0]

/-- The width of pixel `i`'s index (R160). -/
def indexWidth (ns part nom i : Nat) : Nat := if i ∈ anchorPixels ns part then nom - 1 else nom

/-- The offset of pixel `i`'s index: `nom` bits for each earlier pixel but one for each earlier anchor
(R161). -/
def indexOffset (ns part nom i : Nat) : Nat :=
  nom * i - ((anchorPixels ns part).filter fun a => a < i).length

/-- The weight of an index of `n` bits (R180). -/
def weightOf (n i : Nat) : Nat :=
  (if n = 2 then weights2 else if n = 3 then weights3 else weights4).getD i 0

/-- The interpolation formula (R181), `>>` being the arithmetic shift. -/
def mix (e0 e1 : Int) (w : Nat) : Int := ((64 - (w : Int)) * e0 + w * e1 + 32) >>> 6

/-! ## BC6H (R193, R225 to R236, R260, R261) -/

/-- The bit of its field that a layout line puts at block bit `k` of `first..last`: `lo + (k - first)`,
or `hi - (k - first)` in a line marked reversed (R193). -/
def lineBit (l : Line6) (k : Nat) : Nat :=
  if l.reversed then l.hi - (k - l.first) else l.lo + (k - l.first)

/-- Component `c` of endpoint `k` after step 3, in `EPB`-bit arithmetic: the stored delta sign-extended
and added without its carry, or the stored value (R225, R226, R228). -/
def endpoint6 (m : Mode6) (raw : EpFile) (k : Fin 6) (c : Fin 4) : Half :=
  let d := refDesc6 m
  if 2 * d.ns ≤ k.val ∨ c = 3 then 0#16
  else if d.transformed = true ∧ k ≠ 0 then
    ((epAt raw 0 c).setWidth d.epb + ((epAt raw k c).setWidth (d.db c)).signExtend d.epb).setWidth 16
  else epAt raw k c

/-- The unsigned unquantization (R232). -/
def unquantizeU (epb e : Nat) : Nat :=
  if 15 ≤ epb then e
  else if e = 0 then 0
  else if e = 2 ^ epb - 1 then 0xFFFF
  else ((e <<< 16) + 0x8000) >>> epb

/-- The signed unquantization (R233) of the integer that the `EPB`-bit pattern denotes (R227). -/
def unquantizeS (epb e : Nat) : Int :=
  let v := (BitVec.ofNat epb e).toInt
  let t : Nat :=
    if v.natAbs = 0 then 0
    else if 2 ^ (epb - 1) - 1 ≤ v.natAbs then 0x7FFF
    else ((v.natAbs <<< 15) + 0x4000) >>> (epb - 1)
  if 16 ≤ epb then v else v.sign * t

/-- Steps 4 and 5 of an endpoint component in a profile (R231). -/
def unquantize (signed : Bool) (epb e : Nat) : Int :=
  if signed then unquantizeS epb e else unquantizeU epb e

/-- The half pattern of an interpolated value (R236). -/
def halfOf (signed : Bool) (v : Int) : Nat :=
  if signed = false then ((v * 31) >>> 6).toNat
  else if 0 ≤ v then ((v * 31) >>> 5).toNat
  else 0x8000 + ((-v * 31) >>> 5).toNat

/-- Lane `c` of pixel `i` of a BC6H block, from the decoded-field registers of `t` (R234, R236). -/
def lane6 (m : Mode6) (signed : Bool) (t : State) (i : Pixel) (c : Fin 4) : Nat :=
  let d := refDesc6 m
  let sub := subset d.ns t.part.toNat i
  let u := fun k => unquantize signed d.epb (epAt t.ep (Fin.ofNat 6 k) c).toNat
  halfOf signed (mix (u (2 * sub)) (u (2 * sub + 1)) (weightOf d.nom t.idx[i].toNat))

/-- What an unpack of a BC6H block of mode `m` with the fields `f` makes of `s`: the decoded-field
registers hold the fields, `TEX` the pipeline's result, `STATUS` the mode; nothing else changes (R222,
R228, R237). -/
def Unpacked6 (m : Mode6) (signed : Bool) (f : Fields6) (s t : State) : Prop :=
  t = { s with
        tex := t.tex
        ep := t.ep
        part := f.part.setWidth 6
        pbits := 0#6
        rot := 0#2
        idxm := 0#1
        idx := f.idx
        idx2 := Vector.replicate 16 0#4
        status := statusWord s.status 0#3 false (BitVec.ofNat 5 (refDesc6 m).code)
          (BitVec.ofNat 2 (refDesc6 m).ns) } ∧
  (∀ k c, epAt t.ep k c = endpoint6 m f.raw k c) ∧
  ∀ i : Pixel, (∀ c : Fin 4, c ≠ 3 → (lane t.tex[i] c).toNat = lane6 m signed t i c) ∧
    lane t.tex[i] 3 = 0#16

/-- What an unpack of an Unknown block makes of `s` (R238). -/
def sentinel (s : State) : State :=
  { s with
    tex := Vector.replicate 16 0x00003C0000003C00#64
    ep := Vector.replicate 24 0#16
    part := 0#6
    pbits := 0#6
    rot := 0#2
    idxm := 0#1
    idx := Vector.replicate 16 0#4
    idx2 := Vector.replicate 16 0#4
    status := statusWord s.status 0#3 true 31#5 0#2 }

/-- The difference of component `c` of endpoints `k` and 0 modulo `2^EPB`, as the integer that `EPB` bits
denote (R261). -/
def delta6 (m : Mode6) (ep : EpFile) (k : Fin 6) (c : Fin 4) : Int :=
  ((epAt ep k c).setWidth (refDesc6 m).epb - (epAt ep 0 c).setWidth (refDesc6 m).epb).toInt

/-- The operands of `BC6H.PACK` of mode `m` fit their fields (R260, R261, R262). -/
def Packable6 (m : Mode6) (s : State) : Prop :=
  let d := refDesc6 m
  (∀ (k : Fin 6) (c : Fin 4), k.val < 2 * d.ns → c ≠ 3 → (epAt s.ep k c).toNat ≤ 2 ^ d.epb - 1) ∧
  (d.ns = 2 → s.part.toNat ≤ 31) ∧
  (d.transformed = true → ∀ (k : Fin 6) (c : Fin 4), k ≠ 0 → k.val < 2 * d.ns → c ≠ 3 →
    -(2 ^ (d.db c - 1) : Int) ≤ delta6 m s.ep k c ∧ delta6 m s.ep k c ≤ 2 ^ (d.db c - 1) - 1) ∧
  ∀ i : Pixel, s.idx[i].toNat ≤ 2 ^ indexWidth d.ns s.part.toNat d.nom i.val - 1

/-- The value whose low bits a layout field of a packed BC6H block receives (R260, R261). -/
def packedField6 (m : Mode6) (s : State) : Field6 → Half
  | .d => s.part.setWidth 16
  | .comp k c =>
    if (refDesc6 m).transformed = true ∧ k ≠ 0 then epAt s.ep k c - epAt s.ep 0 c else epAt s.ep k c

/-! ## BC7 (R325 to R330, R350) -/

/-- The P-bit of endpoint `e` (R325). -/
def pbit7 (m : Mode7) (pbits : BitVec 6) (e : Nat) : Nat :=
  match m with
  | .m0 | .m3 | .m6 | .m7 => (pbits.getLsbD e).toNat
  | .m1 => (pbits.getLsbD (e / 2)).toNat
  | .m2 | .m4 | .m5 => 0

/-- `expand` (R326): the value on top, its high-order bits again in the low bits. -/
def expand8 (v n : Nat) : Nat := (v <<< (8 - n)) ||| (v >>> (2 * n - 8))

/-- The full 8-bit component of an endpoint, from the decoded-field registers (R325 to R327). -/
def full7 (m : Mode7) (t : State) (e : Nat) (c : Fin 4) : Nat :=
  let d := refDesc7 m
  let raw := (epAt t.ep (Fin.ofNat 6 e) c).toNat
  let w := if c = 3 then d.ab else d.cb
  if w = 0 then 255
  else
    match m with
    | .m2 | .m4 | .m5 => expand8 raw w
    | .m0 | .m1 | .m3 | .m6 | .m7 => expand8 (2 * raw + pbit7 m t.pbits e) (w + 1)

/-- The index and its width that channel `c` of pixel `i` uses: the table of R328. -/
def index7 (m : Mode7) (t : State) (i : Pixel) (c : Fin 4) : Nat × Nat :=
  match m with
  | .m4 =>
    if (t.idxm = 1#1 ∧ c ≠ 3) ∨ (t.idxm = 0#1 ∧ c = 3) then (t.idx2[i].toNat, 3)
    else (t.idx[i].toNat, 2)
  | .m5 => if c = 3 then (t.idx2[i].toNat, 2) else (t.idx[i].toNat, 2)
  | .m0 | .m1 => (t.idx[i].toNat, 3)
  | .m2 | .m3 | .m7 => (t.idx[i].toNat, 2)
  | .m6 => (t.idx[i].toNat, 4)

/-- Channel `c` of pixel `i` before the rotation (R329). -/
def channel7 (m : Mode7) (t : State) (i : Pixel) (c : Fin 4) : Int :=
  let sub := subset (refDesc7 m).ns t.part.toNat i
  let x := index7 m t i c
  mix (full7 m t (2 * sub) c) (full7 m t (2 * sub + 1) c) (weightOf x.2 x.1)

/-- The channel that the rotation brings to lane `c` (R330). -/
def rotated (rot : Nat) (c : Fin 4) : Fin 4 :=
  if rot = 0 then c
  else if c = 3 then Fin.ofNat 4 (rot - 1)
  else if c.val + 1 = rot then 3
  else c

/-- What an unpack of a BC7 block of mode `m` with the fields `f` makes of `s` (R322, R331). -/
def Unpacked7 (m : Mode7) (f : Fields7) (s t : State) : Prop :=
  t = { s with
        tex := t.tex
        ep := f.raw
        part := f.part
        pbits := f.pbits
        rot := f.rot
        idxm := f.idxm
        idx := f.idx
        idx2 := f.idx2
        status := statusWord s.status 0#3 false (BitVec.ofNat 5 (refDesc7 m).number)
          (BitVec.ofNat 2 (refDesc7 m).ns) } ∧
  ∀ (i : Pixel) (c : Fin 4), ((lane t.tex[i] c).toNat : Int) = channel7 m t i (rotated t.rot.toNat c)

/-- The operands of `BC7.PACK` of mode `m` fit their fields (R350). -/
def Packable7 (m : Mode7) (s : State) : Prop :=
  let d := refDesc7 m
  (0 < d.pb → s.part.toNat ≤ 2 ^ d.pb - 1) ∧
  (∀ (e : Fin 6) (c : Fin 4), e.val < 2 * d.ns → c ≠ 3 → (epAt s.ep e c).toNat ≤ 2 ^ d.cb - 1) ∧
  (0 < d.ab → ∀ e : Fin 6, e.val < 2 * d.ns → (epAt s.ep e 3).toNat ≤ 2 ^ d.ab - 1) ∧
  (∀ i : Pixel, s.idx[i].toNat ≤ 2 ^ indexWidth d.ns s.part.toNat d.ib i.val - 1) ∧
  ∀ ib2, d.ib2 = some ib2 → ∀ i : Pixel, s.idx2[i].toNat ≤ 2 ^ indexWidth 1 0 ib2 i.val - 1

/-- The value a layout field of a packed BC7 block receives (R350). -/
def packedField7 (s : State) : Field7 → Nat
  | .part => s.part.toNat
  | .rot => s.rot.toNat
  | .idxm => s.idxm.toNat
  | .comp e c => (epAt s.ep e c).toNat
  | .pbit k => (s.pbits.getLsbD k.val).toNat

/-- The value of a BC7 layout field among the operands of a block row (R293). -/
def rowField7 (f : Fields7) : Field7 → Nat
  | .part => f.part.toNat
  | .rot => f.rot.toNat
  | .idxm => f.idxm.toNat
  | .comp e c => (epAt f.raw e c).toNat
  | .pbit k => (f.pbits.getLsbD k.val).toNat

/-- Bits `pos .. pos + width - 1` of a block, as a number (R9). -/
def field (b : Block) (pos width : Nat) : Nat := b.toNat / 2 ^ pos % 2 ^ width

end Sys2Proof.Spec
end

