-- ==== Sys2Proof/Certificates/Slice0/Obligations.lean ====
section
/-! DEFINITION. The statements for the provers, in the order of the spec's files. Every statement is about
the reference configuration (log entry 1). `Sys2Proof.Spec` of Safety.lean holds their vocabulary. -/

open Sys2Proof Sys2Proof.Machine

/-! ## State and reset (spec/10_state.md, spec/70_reset_and_hazards.md) -/

/-- R37, R440: after reset every register reads as zero. -/
def Obligations.ResetRegistersZero : Prop :=
  ∀ n : Nat, Spec.registerValue State.reset n = 0

/-- R25: `status(ERR, SENT, MODE, NS)` sets `DONE`, writes the four fields, keeps `STICKY` or sets it with
a fault, and leaves bits 31:13 zero. -/
def Obligations.StatusWordFields : Prop :=
  ∀ (old : Word32) (err : BitVec 3) (sent : Bool) (mode : BitVec 5) (ns : BitVec 2),
    let w := statusWord old err sent mode ns
    statusDone w = true ∧ statusErr w = err ∧ statusSent w = sent ∧ statusMode w = mode ∧
    statusNs w = ns ∧ statusSticky w = (statusSticky old || decide (err ≠ 0#3)) ∧
    w.extractLsb' 13 19 = 0#19

/-- R62: the script `LDBLK b0 ... b15`, whatever transactions follow it (R386), leaves the sixteen bytes in
the block in wire order, and changes no other register. -/
def Obligations.LoadBlockBytes : Prop :=
  ∀ (s : State) (bs : Vector (BitVec 8) 16) (rest : List HostOp), s.script = ldblk bs ++ rest →
    ∃ t u : State, step s = .next t ∧ step t = .next u ∧
      u = { s with blkLo := u.blkLo, blkHi := u.blkHi, script := rest } ∧
      ∀ k : Fin 16, u.blk.toNat / 2 ^ (8 * k.val) % 256 = (bs[k]).toNat

/-! ## Encodings (spec/30_encoding.md) -/

/-- R93: a word decodes to a command exactly when the OP map lists it, and the command's encoding is that
word. -/
def Obligations.CommandWordsAreTheOpMap : Prop :=
  (∀ (w : Word32) (i : Instr), decodeCmd w = .ok i ↔ (w.toNat, i) ∈ Spec.commandTable) ∧
  ∀ p ∈ Spec.commandTable, encode refConfig p.2 = .cmd (BitVec.ofNat 32 p.1)

/-- R94: a word is rejected exactly when one of the clauses holds. -/
def Obligations.IllegalWordsAreTheClauses : Prop :=
  ∀ w : Word32, (∃ r, decodeCmd w = .error r) ↔ Spec.IllegalWord w.toNat

/-- R95, R221: the mode of a BC6H block, by its low two or five bits. -/
def Obligations.Bc6hModeSelector : Prop :=
  ∀ (b : Block),
    (∀ m : Mode6, modeOf6 b = some m ↔
      (Spec.field b 1 1 = 0 ∧ Spec.field b 0 2 = (refDesc6 m).code) ∨
      (Spec.field b 1 1 = 1 ∧ Spec.field b 0 5 = (refDesc6 m).code)) ∧
    (modeOf6 b = none ↔ Spec.field b 0 5 ∈ [19, 23, 27, 31])

/-- R98, R321: the mode of a BC7 block is the index of the lowest set bit among bits 0..7. -/
def Obligations.Bc7ModeSelector : Prop :=
  ∀ (b : Block),
    (∀ m : Mode7, modeOf7 b = some m ↔
      (b.getLsbD (refDesc7 m).number = true ∧ ∀ k < (refDesc7 m).number, b.getLsbD k = false)) ∧
    (modeOf7 b = none ↔ Spec.field b 0 8 = 0)

/-- R101, R193: every block bit of a layout line is the field bit that the line puts there, counted up in
an ascending line and down in a reversed one; and a field bit that no line gives is zero. -/
def Obligations.Bc6hFieldsReadTheLayout : Prop :=
  ∀ (m : Mode6) (b : Block),
    (∀ l ∈ refLayout6 m, ∀ k, l.first ≤ k → k ≤ l.last →
      (value6 (fields6 refConfig m b) l.field).getLsbD (Spec.lineBit l k) = b.getLsbD k) ∧
    ∀ (f : Field6) (j : Nat), (∀ l ∈ refLayout6 m, ¬ (l.field = f ∧ l.lo ≤ j ∧ j ≤ l.hi)) →
      (value6 (fields6 refConfig m b) f).getLsbD j = false

/-- R102, R293: every field of a BC7 block is its span of the block; a field the mode does not have is
zero. -/
def Obligations.Bc7FieldsReadTheLayout : Prop :=
  ∀ (m : Mode7) (b : Block) (f : Field7),
    Spec.rowField7 (fields7 refConfig m b) f =
      match (refLayout7 m).fields.lookup f with
      | some sp => Spec.field b sp.pos sp.width
      | none => 0

/-- R103, R229, R328: pixel `i`'s index is the anchor-aware width of bits at the anchor-aware offset. -/
def Obligations.IndicesReadTheirBits : Prop :=
  (∀ (m : Mode6) (b : Block) (i : Pixel),
    let f := fields6 refConfig m b
    let d := refDesc6 m
    f.idx[i].toNat =
      Spec.field b (d.indexBegin + Spec.indexOffset d.ns f.part.toNat d.nom i.val)
        (Spec.indexWidth d.ns f.part.toNat d.nom i.val)) ∧
  ∀ (m : Mode7) (b : Block) (i : Pixel),
    let f := fields7 refConfig m b
    let d := refDesc7 m
    let l := refLayout7 m
    f.idx[i].toNat =
      Spec.field b (l.indexBegin + Spec.indexOffset d.ns f.part.toNat d.ib i.val)
        (Spec.indexWidth d.ns f.part.toNat d.ib i.val) ∧
    f.idx2[i].toNat =
      match d.ib2 with
      | some ib2 =>
        Spec.field b (l.index2Begin + Spec.indexOffset 1 0 ib2 i.val) (Spec.indexWidth 1 0 ib2 i.val)
      | none => 0

/-- R209, R303: decoding the encoding of a well-formed instruction gives it back. -/
def Obligations.DecodeOfEncode : Prop :=
  ∀ i : Instr, WellFormed i = true → decode refConfig (encode refConfig i) = .ok i

/-- R209 (d), R303 (c): what decodes is the encoding of its decoding, which is well formed; so every block
is the image of exactly one tuple of fields. -/
def Obligations.EncodeOfDecode : Prop :=
  ∀ (c : Code) (i : Instr), decode refConfig c = .ok i →
    encode refConfig i = c ∧ WellFormed i = true

/-- R93, R94: a few command words, written out. The last clause is the model's choice (log entry 3): that
the byte 0x13, given as bits alone, stands for the selector of a BC6H block, here of the row BLK6.UNKNOWN
with selector 19. -/
def Obligations.DecodedWords : Prop :=
  decodeTableWord 32 0x00000207 = some .bc6hUnpackS ∧
  decodeTableWord 32 0x000001A8 = some .bc6hPackM26 ∧
  decodeTableWord 32 0x0000007B = some .bc7PackM7 ∧
  decodeTableWord 32 0x00000400 = none ∧
  decodeTableWord 8 0x13 = some (.blk6Unknown 19 0)

/-! ## BitField128 (spec/40_bitfield.md) -/

/-- R133 (R130): inside the precondition BF.EXTRACT puts the addressed bits, zero-extended, in `BF_VALUE`;
outside it ends in BitfieldRangeError and only `STATUS` changes. -/
def Obligations.BfExtractReadsTheSpan : Prop :=
  ∀ s : State,
    (1 ≤ s.bfCount.toNat ∧ s.bfCount.toNat ≤ 64 ∧ s.bfIndex.toNat + s.bfCount.toNat ≤ 128 →
      ∃ v : Word64,
        exec .bfExtract s = .next { s with
          bfValue := v
          status := statusWord s.status 0#3 false 0#5 0#2 } ∧
        v.toNat = Spec.field s.blk s.bfIndex.toNat s.bfCount.toNat) ∧
    (s.bfCount.toNat < 1 ∨ 64 < s.bfCount.toNat ∨ 128 < s.bfIndex.toNat + s.bfCount.toNat →
      exec .bfExtract s = .next { s with status := statusWord s.status 3#3 false 0#5 0#2 })

/-- R134 (R131): inside the precondition BF.STORE puts the low bits of `BF_VALUE` at the addressed bits and
leaves every other bit of the block and every other register as it was; outside it the command ends in
BitfieldRangeError and only `STATUS` changes. -/
def Obligations.BfStoreWritesTheSpan : Prop :=
  ∀ s : State,
    (1 ≤ s.bfCount.toNat ∧ s.bfCount.toNat ≤ 64 ∧ s.bfIndex.toNat + s.bfCount.toNat ≤ 128 →
      ∃ t : State, exec .bfStore s = .next t ∧
        t = { s with
          blkLo := t.blkLo
          blkHi := t.blkHi
          status := statusWord s.status 0#3 false 0#5 0#2 } ∧
        ∀ k : Nat, t.blk.getLsbD k =
          if s.bfIndex.toNat ≤ k ∧ k < s.bfIndex.toNat + s.bfCount.toNat then
            s.bfValue.getLsbD (k - s.bfIndex.toNat)
          else s.blk.getLsbD k) ∧
    (s.bfCount.toNat < 1 ∨ 64 < s.bfCount.toNat ∨ 128 < s.bfIndex.toNat + s.bfCount.toNat →
      exec .bfStore s = .next { s with status := statusWord s.status 3#3 false 0#5 0#2 })

/-- R132: the three laws of `extract` and `store`. -/
def Obligations.ExtractStoreLaws : Prop :=
  ∀ (low high : Word64) (i n : Nat), LegalSpan i n →
    (∀ v : Word64, ∃ lo hi : Word64, store low high i n v = some (lo, hi) ∧
      extract lo hi i n = some (BitVec.ofNat 64 (v.toNat % 2 ^ n)) ∧
      ∀ j m : Nat, LegalSpan j m → (j + m ≤ i ∨ i + n ≤ j) →
        extract lo hi j m = extract low high j m) ∧
    ∃ v : Word64, extract low high i n = some v ∧ store low high i n v = some (low, high)

/-! ## Partition tables (spec/41_partition_tables.md) -/

/-- R157: the invariants (a) to (e) of the tables, for the reference values. -/
def Obligations.PartitionTableInvariants : Prop :=
  refConfig.PartitionLaws ∧
  (∀ (p : Fin 64) (k : Fin 2), ∃ i, refConfig.p2Bc7 p i = k) ∧
  (∀ (p : Fin 32) (k : Fin 2), ∃ i, refConfig.p2Bc6h p i = k) ∧
  (∀ (p : Fin 64) (k : Fin 3), ∃ i, refConfig.p3Bc7 p i = k) ∧
  ∀ p : Fin 64, refConfig.a3aBc7 p ≠ refConfig.a3bBc7 p

/-- R163 (R158, R166): a legal PT.SUBSET puts the pixel's subset in `PTR`; an illegal one ends in
TableRangeError and only `STATUS` changes. -/
def Obligations.PtSubsetAnswers : Prop :=
  ∀ s : State,
    (Spec.LegalQuery false s →
      exec .ptSubset s = .next { s with
        ptr := BitVec.ofNat 8 (Spec.subset (queryNs s.ptq) s.part.toNat (queryPix s.ptq))
        status := statusWord s.status 0#3 false 0#5 0#2 }) ∧
    (¬ Spec.LegalQuery false s →
      exec .ptSubset s = .next { s with status := statusWord s.status 5#3 false 0#5 0#2 })

/-- R164 (R160, R166): a legal PT.IDXWIDTH puts the width of the pixel's index field in `PTR`; an illegal
one ends in TableRangeError and only `STATUS` changes. -/
def Obligations.PtIdxWidthAnswers : Prop :=
  ∀ s : State,
    (Spec.LegalQuery true s →
      exec .ptIdxWidth s = .next { s with
        ptr := BitVec.ofNat 8
          (Spec.indexWidth (queryNs s.ptq) s.part.toNat (queryNom s.ptq) (queryPix s.ptq).val)
        status := statusWord s.status 0#3 false 0#5 0#2 }) ∧
    (¬ Spec.LegalQuery true s →
      exec .ptIdxWidth s = .next { s with status := statusWord s.status 5#3 false 0#5 0#2 })

/-- R165 (R161, R166): a legal PT.IDXOFFSET puts the offset of the pixel's index field in `PTR`, in the
closed form of R161; an illegal one ends in TableRangeError and only `STATUS` changes. -/
def Obligations.PtIdxOffsetAnswers : Prop :=
  ∀ s : State,
    (Spec.LegalQuery true s →
      exec .ptIdxOffset s = .next { s with
        ptr := BitVec.ofNat 8
          (Spec.indexOffset (queryNs s.ptq) s.part.toNat (queryNom s.ptq) (queryPix s.ptq).val)
        status := statusWord s.status 0#3 false 0#5 0#2 }) ∧
    (¬ Spec.LegalQuery true s →
      exec .ptIdxOffset s = .next { s with status := statusWord s.status 5#3 false 0#5 0#2 })

/-- R162: after an unpack that ends without a fault, of any block of either format, every anchor's index
has its top bit zero, in the second array of modes 4 and 5 too. -/
def Obligations.AnchorIndicesHaveTopBitZero : Prop :=
  ∀ (s t : State),
    (∀ m : Mode6, modeOf6 s.blk = some m →
      (exec .bc6hUnpackU s = .next t ∨ exec .bc6hUnpackS s = .next t) →
      ∀ i : Pixel, i.val ∈ Spec.anchorPixels (refDesc6 m).ns t.part.toNat →
        t.idx[i].toNat < 2 ^ ((refDesc6 m).nom - 1)) ∧
    ∀ m : Mode7, modeOf7 s.blk = some m → exec .bc7Unpack s = .next t →
      (∀ i : Pixel, i.val ∈ Spec.anchorPixels (refDesc7 m).ns t.part.toNat →
        t.idx[i].toNat < 2 ^ ((refDesc7 m).ib - 1)) ∧
      ∀ ib2, (refDesc7 m).ib2 = some ib2 → t.idx2[0].toNat < 2 ^ (ib2 - 1)

/-! ## Interpolation (spec/42_interpolation.md) -/

/-- R181: the first index gives the first endpoint, the last the second, equal endpoints give themselves,
and every result lies between the endpoints. -/
def Obligations.InterpolationIsBetween : Prop :=
  ∀ (n : Nat), (n = 2 ∨ n = 3 ∨ n = 4) → ∀ (e0 e1 : Int),
    interp refConfig e0 e1 0#4 n = e0 ∧
    interp refConfig e0 e1 (BitVec.ofNat 4 (2 ^ n - 1)) n = e1 ∧
    ∀ idx : BitVec 4, idx.toNat < 2 ^ n →
      interp refConfig e0 e1 idx n = Spec.mix e0 e1 (Spec.weightOf n idx.toNat) ∧
      min e0 e1 ≤ interp refConfig e0 e1 idx n ∧ interp refConfig e0 e1 idx n ≤ max e0 e1

/-! ## Layouts (spec/43_bc6h_modes.md, spec/46_bc7_modes.md) -/

/-- R209 (a), R303 (a): the selector and the fields cover every block bit below the index array exactly
once. -/
def Obligations.LayoutsTileTheHeader : Prop :=
  (∀ m : Mode6, ∀ k < (refDesc6 m).indexBegin,
    ((refLayout6 m).filter fun l => decide (l.first ≤ k ∧ k ≤ l.last)).length =
      if k < (refDesc6 m).selBits then 0 else 1) ∧
  ∀ m : Mode7, ∀ k < (refLayout7 m).indexBegin,
    ((refLayout7 m).fields.filter fun x => decide (x.2.pos ≤ k ∧ k < x.2.pos + x.2.width)).length =
      if k ≤ (refDesc7 m).number then 0 else 1

/-! ## BC6H decode (spec/44_bc6h_decode.md) -/

/-- R220: BC6H.MODEOF reports the mode and its number of subsets, or 31 and 0, and changes only
`STATUS`. -/
def Obligations.Bc6hModeOfReports : Prop :=
  ∀ s : State,
    (∀ m : Mode6, modeOf6 s.blk = some m →
      exec .bc6hModeOf s = .next { s with
        status := statusWord s.status 0#3 false (BitVec.ofNat 5 (refDesc6 m).code)
          (BitVec.ofNat 2 (refDesc6 m).ns) }) ∧
    (modeOf6 s.blk = none →
      exec .bc6hModeOf s = .next { s with status := statusWord s.status 0#3 false 31#5 0#2 })

/-- R222 to R237: both unpack commands complete on every block of a live mode: the decoded-field registers
hold the block's fields and endpoints, the texels follow from them, and nothing else changes. -/
def Obligations.Bc6hUnpackDecodesLiveBlocks : Prop :=
  ∀ (s : State) (m : Mode6), modeOf6 s.blk = some m →
    (∃ t : State, exec .bc6hUnpackU s = .next t ∧
      Spec.Unpacked6 m false (fields6 refConfig m s.blk) s t) ∧
    ∃ t : State, exec .bc6hUnpackS s = .next t ∧
      Spec.Unpacked6 m true (fields6 refConfig m s.blk) s t

/-- R238: an Unknown block unpacks to sixteen magenta texels and zero fields, with `SENT` set, in both
profiles and whatever its other bits. -/
def Obligations.Bc6hUnknownGivesTheSentinel : Prop :=
  ∀ s : State, Spec.field s.blk 0 5 ∈ [19, 23, 27, 31] →
    exec .bc6hUnpackU s = .next (Spec.sentinel s) ∧ exec .bc6hUnpackS s = .next (Spec.sentinel s)

/-- R194 to R208: every BC6H block row completes, for all its well-formed operands: a live row as the
unpack of its block in the profile of `CMD[SIGNED]`, the Unknown row as the sentinel. That a block row runs
as an instruction is the model's choice (log entry 4). -/
def Obligations.Bc6hBlockRowsDecode : Prop :=
  (∀ (s : State) (m : Mode6) (f : Fields6), wf6 refConfig m f = true →
    ∃ t : State, exec (.blk6 m f) s = .next t ∧ Spec.Unpacked6 m (s.cmd.getLsbD 9) f s t) ∧
  ∀ (s : State) (sel : BitVec 5) (rest : BitVec 123), sel.toNat ∈ [19, 23, 27, 31] →
    exec (.blk6Unknown sel rest) s = .next (Spec.sentinel s)

/-- R239: the half patterns a BC6H unpack can produce, by profile and endpoint width. -/
def Obligations.Bc6hLaneRanges : Prop :=
  ∀ (s t : State) (i : Pixel) (c : Fin 4), c ≠ 3 →
    (exec .bc6hUnpackU s = .next t → (lane t.tex[i] c).toNat ≤ 0x7BFF) ∧
    (exec .bc6hUnpackS s = .next t →
      (lane t.tex[i] c).toNat ≤ 0x7BFF ∨
      (0x8000 ≤ (lane t.tex[i] c).toNat ∧ (lane t.tex[i] c).toNat ≤ 0xFBFF) ∨
      (modeOf6 s.blk = some .m15 ∧ lane t.tex[i] c = 0xFC00#16))

/-! ## BC6H pack (spec/45_bc6h_pack.md) -/

/-- R260 to R262: with operands that fit, every BC6H pack command completes: the block holds the selector,
every layout bit and every index, and nothing but the block and `STATUS` changes. -/
def Obligations.Bc6hPackPlacesTheFields : Prop :=
  ∀ (s : State) (m : Mode6), Spec.Packable6 m s →
    let d := refDesc6 m
    ∃ t : State, exec (.bc6hPack m) s = .next t ∧
      t = { s with
        blkLo := t.blkLo
        blkHi := t.blkHi
        status := statusWord s.status 0#3 false (BitVec.ofNat 5 d.code) (BitVec.ofNat 2 d.ns) } ∧
      Spec.field t.blk 0 d.selBits = d.code ∧
      (∀ l ∈ refLayout6 m, ∀ k, l.first ≤ k → k ≤ l.last →
        t.blk.getLsbD k = (Spec.packedField6 m s l.field).getLsbD (Spec.lineBit l k)) ∧
      ∀ i : Pixel,
        Spec.field t.blk (d.indexBegin + Spec.indexOffset d.ns s.part.toNat d.nom i.val)
          (Spec.indexWidth d.ns s.part.toNat d.nom i.val) = s.idx[i].toNat

/-- R260, R402: with an operand that does not fit, every BC6H pack command ends in PackContractError and
only `STATUS` changes. -/
def Obligations.Bc6hPackContractFaults : Prop :=
  ∀ (s : State) (m : Mode6), ¬ Spec.Packable6 m s →
    exec (.bc6hPack m) s = .next { s with status := statusWord s.status 2#3 false 0#5 0#2 }

/-- R263 (a): unpacking a live BC6H block and packing with its mode gives the block back. -/
def Obligations.Bc6hPackOfUnpack : Prop :=
  ∀ (s t : State) (m : Mode6), modeOf6 s.blk = some m →
    (exec .bc6hUnpackU s = .next t ∨ exec .bc6hUnpackS s = .next t) →
    ∃ u : State, exec (.bc6hPack m) t = .next u ∧ u.blk = s.blk ∧ statusErr u.status = 0#3

/-- R263 (b): packing operands that fit and unpacking gives the endpoints, indices and partition back. -/
def Obligations.Bc6hUnpackOfPack : Prop :=
  ∀ (s t : State) (m : Mode6), Spec.Packable6 m s → exec (.bc6hPack m) s = .next t →
    ∀ i ∈ [Instr.bc6hUnpackU, Instr.bc6hUnpackS], ∃ u : State, exec i t = .next u ∧
      (∀ (k : Fin 6) (c : Fin 4), k.val < 2 * (refDesc6 m).ns → c ≠ 3 →
        epAt u.ep k c = epAt s.ep k c) ∧
      u.idx = s.idx ∧ ((refDesc6 m).ns = 2 → u.part = s.part) ∧
      (statusMode u.status).toNat = (refDesc6 m).code

/-! ## BC7 decode (spec/47_bc7_decode.md) -/

/-- R320: BC7.MODEOF reports the mode and its number of subsets, or 8 and 0, and changes only `STATUS`. -/
def Obligations.Bc7ModeOfReports : Prop :=
  ∀ s : State,
    (∀ m : Mode7, modeOf7 s.blk = some m →
      exec .bc7ModeOf s = .next { s with
        status := statusWord s.status 0#3 false (BitVec.ofNat 5 (refDesc7 m).number)
          (BitVec.ofNat 2 (refDesc7 m).ns) }) ∧
    (modeOf7 s.blk = none →
      exec .bc7ModeOf s = .next { s with status := statusWord s.status 0#3 false 8#5 0#2 })

/-- R322 to R331: BC7.UNPACK completes on every block that is not Reserved: the decoded-field registers
hold the block's fields, the texels follow from them, and nothing else changes. -/
def Obligations.Bc7UnpackDecodesLiveBlocks : Prop :=
  ∀ (s : State) (m : Mode7), modeOf7 s.blk = some m →
    ∃ t : State, exec .bc7Unpack s = .next t ∧
      Spec.Unpacked7 m (fields7 refConfig m s.blk) s t

/-- R332: BC7.UNPACK of a Reserved block ends in DataFormatError with `MODE` 8, and only `STATUS`
changes. -/
def Obligations.Bc7ReservedFaults : Prop :=
  ∀ s : State, Spec.field s.blk 0 8 = 0 →
    exec .bc7Unpack s = .next { s with status := statusWord s.status 1#3 false 8#5 0#2 }

/-- R294 to R302: every BC7 block row completes, for all its well-formed operands, as the unpack of its
block; the Reserved row ends in DataFormatError. That a block row runs as an instruction is the model's
choice (log entry 4). -/
def Obligations.Bc7BlockRowsDecode : Prop :=
  (∀ (s : State) (m : Mode7) (f : Fields7), wf7 refConfig m f = true →
    ∃ t : State, exec (.blk7 m f) s = .next t ∧ Spec.Unpacked7 m f s t) ∧
  ∀ (s : State) (rest : BitVec 120),
    exec (.blk7Reserved rest) s = .next { s with status := statusWord s.status 1#3 false 8#5 0#2 }

/-- R327: a block of a mode without alpha decodes to texels of alpha 255. -/
def Obligations.Bc7AlphaDefaultsTo255 : Prop :=
  ∀ (s t : State) (m : Mode7), m ∈ [Mode7.m0, .m1, .m2, .m3] → modeOf7 s.blk = some m →
    exec .bc7Unpack s = .next t → ∀ i : Pixel, lane t.tex[i] 3 = 255#16

/-- R326: `expand` of an `n`-bit value, `n` from 5 to 8, is the byte whose bits from the top are the
value's, over and over. -/
def Obligations.ExpandReplicatesTheTopBits : Prop :=
  ∀ (n v : Nat), 5 ≤ n → n ≤ 8 → v < 2 ^ n →
    expand v n < 256 ∧
    (∀ k, k < n → (expand v n).testBit (7 - k) = v.testBit (n - 1 - k)) ∧
    (∀ k, n ≤ k → k < 8 → (expand v n).testBit (7 - k) = v.testBit (n - 1 - (k - n)))

/-- R330: each rotation is an involution of a pixel, and rotation 0 leaves it as it is. -/
def Obligations.RotationIsAnInvolution : Prop :=
  ∀ (p : Rgba) (k : BitVec 2), rotate (rotate p k) k = p ∧ rotate p 0#2 = p

/-! ## BC7 pack (spec/48_bc7_pack.md) -/

/-- R350: with operands that fit, every BC7 pack command completes: the block holds the unary selector,
every field and every index, and nothing but the block and `STATUS` changes. -/
def Obligations.Bc7PackPlacesTheFields : Prop :=
  ∀ (s : State) (m : Mode7), Spec.Packable7 m s →
    let d := refDesc7 m
    let l := refLayout7 m
    ∃ t : State, exec (.bc7Pack m) s = .next t ∧
      t = { s with
        blkLo := t.blkLo
        blkHi := t.blkHi
        status := statusWord s.status 0#3 false (BitVec.ofNat 5 d.number) (BitVec.ofNat 2 d.ns) } ∧
      Spec.field t.blk 0 (d.number + 1) = 2 ^ d.number ∧
      (∀ x ∈ l.fields, Spec.field t.blk x.2.pos x.2.width = Spec.packedField7 s x.1) ∧
      ∀ i : Pixel,
        Spec.field t.blk (l.indexBegin + Spec.indexOffset d.ns s.part.toNat d.ib i.val)
          (Spec.indexWidth d.ns s.part.toNat d.ib i.val) = s.idx[i].toNat ∧
        ∀ ib2, d.ib2 = some ib2 →
          Spec.field t.blk (l.index2Begin + Spec.indexOffset 1 0 ib2 i.val)
            (Spec.indexWidth 1 0 ib2 i.val) = s.idx2[i].toNat

/-- R350, R402: with an operand that does not fit, every BC7 pack command ends in PackContractError and
only `STATUS` changes. -/
def Obligations.Bc7PackContractFaults : Prop :=
  ∀ (s : State) (m : Mode7), ¬ Spec.Packable7 m s →
    exec (.bc7Pack m) s = .next { s with status := statusWord s.status 2#3 false 0#5 0#2 }

/-- R352 (a): unpacking a live BC7 block and packing with its mode gives the block back. -/
def Obligations.Bc7PackOfUnpack : Prop :=
  ∀ (s t : State) (m : Mode7), modeOf7 s.blk = some m → exec .bc7Unpack s = .next t →
    ∃ u : State, exec (.bc7Pack m) t = .next u ∧ u.blk = s.blk ∧ statusErr u.status = 0#3

/-- R352 (b), (c): packing operands that fit and unpacking leaves the registers the mode uses unchanged,
writes 0 to those it does not use, and reports the mode. -/
def Obligations.Bc7UnpackOfPack : Prop :=
  ∀ (s t : State) (m : Mode7), Spec.Packable7 m s → exec (.bc7Pack m) s = .next t →
    let d := refDesc7 m
    ∃ u : State, exec .bc7Unpack t = .next u ∧ modeOf7 t.blk = some m ∧
      u.part = (if 0 < d.pb then s.part else 0#6) ∧
      u.rot = (if 0 < d.rb then s.rot else 0#2) ∧
      u.idxm = (if 0 < d.isb then s.idxm else 0#1) ∧
      (∀ (e : Fin 6) (c : Fin 4), epAt u.ep e c =
        if e.val < 2 * d.ns ∧ (c ≠ 3 ∨ 0 < d.ab) then epAt s.ep e c else 0#16) ∧
      (∀ k : Nat, u.pbits.getLsbD k = (decide (k < d.np) && s.pbits.getLsbD k)) ∧
      u.idx = s.idx ∧
      u.idx2 = (if d.ib2.isSome = true then s.idx2 else Vector.replicate 16 0#4) ∧
      (statusMode u.status).toNat = d.number

/-! ## Commands and faults (spec/49_host_and_system.md, spec/60_exceptions.md) -/

/-- R384: NOP writes `status(0, 0, 0, 0)` to `STATUS`, which keeps of it `STICKY` alone
(StatusWordFields), and no other register. -/
def Obligations.NopWritesOnlyStatus : Prop :=
  ∀ s : State, exec .nop s = .next { s with status := statusWord s.status 0#3 false 0#5 0#2 }

/-- R405: faults are precise: after any instruction, and after any write of `CMD`, that ends in a fault,
the state is the one before it but for `CMD` and `STATUS`, which reports the code, `MODE` 8 for
DataFormatError and 0 else, and `STICKY`. -/
def Obligations.FaultsArePrecise : Prop :=
  let faulted := fun s t : State =>
    t = { s with
      status := statusWord s.status (statusErr t.status) false
        (if statusErr t.status = 1#3 then 8#5 else 0#5) 0#2 } ∧
    statusDone t.status = true ∧ statusSticky t.status = true
  (∀ (i : Instr) (s t : State), exec i s = .next t → statusErr t.status ≠ 0#3 → faulted s t) ∧
  ∀ (s t : State) (v : Word64) (rest : List HostOp), s.script = .wr 0x02#8 v :: rest →
    step s = .next t → statusErr t.status ≠ 0#3 →
    faulted { s with script := rest, cmd := v.setWidth 32 } t

/-- R407: which faults each command can end in. Of the block rows, which R407 does not list, the clauses
are the model's choice (log entry 4: a row runs as the unpack of its block), resting on R401 and R302 for
BLK7.RESERVED, which ends in DataFormatError, and on the unpacks that raise nothing for the others. -/
def Obligations.FaultsByCommand : Prop :=
  ∀ (i : Instr) (s t : State), exec i s = .next t → (statusErr t.status).toNat ∈ Spec.errorCodes i

/-- R385, R404: writing an illegal word stores it in `CMD` and ends in IllegalCommand. -/
def Obligations.IllegalCommandFaults : Prop :=
  ∀ (s : State) (v : Word64) (rest : List HostOp), s.script = .wr 0x02#8 v :: rest →
    Spec.IllegalWord (v.toNat % 2 ^ 32) →
    step s = .next { s with
      script := rest
      cmd := v.setWidth 32
      status := statusWord s.status 4#3 false 0#5 0#2 }

/-- R25, R409, R441: an instruction sets `DONE`, and sets `STICKY` exactly when it ends in a fault or it was
set; no step clears either. -/
def Obligations.StickyRemembersFaults : Prop :=
  (∀ (i : Instr) (s t : State), exec i s = .next t →
    statusDone t.status = true ∧
    statusSticky t.status = (statusSticky s.status || decide (statusErr t.status ≠ 0#3))) ∧
  ∀ s t : State, step s = .next t →
    (statusDone s.status = true → statusDone t.status = true) ∧
    (statusSticky s.status = true → statusSticky t.status = true)

/-- R20, R444: no instruction writes `CMD`, an operand register of BF.* or PT.*, or the host's stream;
only an unpack writes `TEX` and the decoded-field registers; only BF.STORE and the packs write the block,
only BF.EXTRACT `BF_VALUE`, and only PT.* `PTR`. -/
def Obligations.CommandsWriteOnlyTheirRegisters : Prop :=
  ∀ (i : Instr) (s t : State), exec i s = .next t →
    (t.cmd = s.cmd ∧ t.bfIndex = s.bfIndex ∧ t.bfCount = s.bfCount ∧ t.ptq = s.ptq ∧
      t.script = s.script ∧ t.readLog = s.readLog) ∧
    (Spec.unpacks i = false → t.tex = s.tex ∧ t.ep = s.ep ∧ t.part = s.part ∧ t.pbits = s.pbits ∧
      t.rot = s.rot ∧ t.idxm = s.idxm ∧ t.idx = s.idx ∧ t.idx2 = s.idx2) ∧
    (Spec.packs i = false → i ≠ .bfStore → ∀ k : Nat, t.blk.getLsbD k = s.blk.getLsbD k) ∧
    (i ≠ .bfExtract → t.bfValue = s.bfValue) ∧
    (i ≠ .ptSubset → i ≠ .ptIdxWidth → i ≠ .ptIdxOffset → t.ptr = s.ptr)

/-- R35, R70: what an unpack leaves in the registers it writes depends on the block alone. -/
def Obligations.UnpackDependsOnlyOnTheBlock : Prop :=
  ∀ (i : Instr) (s s' t t' : State),
    (i = .bc6hUnpackU ∨ i = .bc6hUnpackS ∨ (i = .bc7Unpack ∧ Spec.field s.blk 0 8 ≠ 0)) →
    s.blk = s'.blk → exec i s = .next t → exec i s' = .next t' →
    t.tex = t'.tex ∧ t.ep = t'.ep ∧ t.part = t'.part ∧ t.pbits = t'.pbits ∧ t.rot = t'.rot ∧
    t.idxm = t'.idxm ∧ t.idx = t'.idx ∧ t.idx2 = t'.idx2 ∧
    statusErr t.status = statusErr t'.status ∧ statusSent t.status = statusSent t'.status ∧
    statusMode t.status = statusMode t'.status ∧ statusNs t.status = statusNs t'.status

/-! ## The host and the step (spec/49_host_and_system.md) -/

/-- R380: a host read returns the register's value, zero where there is none, and changes no register. -/
def Obligations.HostReadReturnsTheRegister : Prop :=
  ∀ (s : State) (n : BitVec 8) (rest : List HostOp), s.script = .rd n :: rest →
    step s = .next { s with
      script := rest
      readLog := s.readLog ++ [BitVec.ofNat 64 (Spec.registerValue s n.toNat)] }

/-- R380: a host write of any register but `CMD` puts the low bits of the value in a register the host may
write, and changes nothing else; a write of a read-only or absent register changes nothing. -/
def Obligations.HostWriteWritesTheRegister : Prop :=
  ∀ (s : State) (n : BitVec 8) (v : Word64) (rest : List HostOp),
    s.script = .wr n v :: rest → n ≠ 0x02#8 →
    ∃ t : State, step s = .next t ∧ t.script = rest ∧ t.readLog = s.readLog ∧
      ∀ k : Nat, Spec.registerValue t k =
        if k = n.toNat ∧ 0 < Spec.writableWidth k then v.toNat % 2 ^ Spec.writableWidth k
        else Spec.registerValue s k

/-- R382, R104: a write of `CMD` stores the word and runs the instruction it decodes to, exactly once. The
second clause is the model's choice (log entry 4: a block row runs as an instruction): an unpack command
does what the row of the block's decoding does. -/
def Obligations.StepRunsTheDecodedInstruction : Prop :=
  (∀ (s : State) (v : Word64) (rest : List HostOp) (i : Instr), s.script = .wr 0x02#8 v :: rest →
    decode refConfig (.cmd (v.setWidth 32)) = .ok i →
    step s = exec i { s with script := rest, cmd := v.setWidth 32 }) ∧
  ∀ (s : State) (v : Word64) (rest : List HostOp) (i : Instr), s.script = .wr 0x02#8 v :: rest →
    ((v.setWidth 32 = 0x007#32 ∨ v.setWidth 32 = 0x207#32) ∧
        decode refConfig (.block6 s.blk) = .ok i) ∨
      (v.setWidth 32 = 0x00A#32 ∧ decode refConfig (.block7 s.blk) = .ok i) →
    step s = exec i { s with script := rest, cmd := v.setWidth 32 }

/-- R442, and log entry 2: with no transaction to come a step changes nothing. -/
def Obligations.IdleEngineDoesNothing : Prop :=
  ∀ s : State, s.script = [] → step s = .next s

/-- R383, R405: the engine never stops: every step from every state gives a next state, and it takes
exactly one transaction of the host's stream (log entries 2 and 5). -/
def Obligations.EveryStepGivesANextState : Prop :=
  ∀ s : State, ∃ t : State, step s = .next t ∧ t.script = s.script.tail

/-- R25, R239, R449: the shapes of `STATUS`, `PTR` and `TEX` are kept by every step. -/
def Obligations.EngineInvariantKept : Prop :=
  ∀ s t : State, EngineInv s → step s = .next t → EngineInv t

/-- R37: the reset state has the shapes of `STATUS`, `PTR` and `TEX`. -/
def Obligations.EngineInvariantAtReset : Prop := EngineInv State.reset
end

