-- ==== Sys2Proof/Laws/BitField.lean ====
section
/-! SUPPORT. What `memRead`, `memWrite`, `extract`, `store` and `placeAll` do, bit by bit; the frame of a
write; the byte view; and reading a register file built by `epFile`. -/

namespace Sys2Proof

/-! ## Masks and reads -/

theorem getLsbD_mask (w n k : Nat) : (mask w n).getLsbD k = (decide (k < w) && decide (k < n)) := by
  simp only [mask, BitVec.getLsbD_ofNat, Nat.testBit_two_pow_sub_one]

/-- A read gives the block's bits from `i` on, and zeros from bit `n` on. -/
theorem getLsbD_memRead (b : Block) (i n k : Nat) :
    (memRead b i n).getLsbD k = (decide (k < 64) && decide (k < n) && b.getLsbD (i + k)) := by
  simp only [memRead, BitVec.getLsbD_and, BitVec.getLsbD_setWidth, BitVec.getLsbD_ushiftRight,
    getLsbD_mask]
  by_cases h : k < 64 <;> by_cases h' : k < n <;> simp [h, h']

/-- What a read of `n` bits returns is below `2^n`. -/
theorem memRead_lt (b : Block) (i n : Nat) : (memRead b i n).toNat < 2 ^ n := by
  refine Nat.lt_pow_two_of_testBit _ fun k hk => ?_
  rw [BitVec.testBit_toNat, getLsbD_memRead]
  simp [Nat.not_lt.mpr hk]

theorem memRead_one (b : Block) (i : Nat) : (memRead b i 1).toNat = (b.getLsbD i).toNat := by
  have h : memRead b i 1 = (BitVec.ofBool (b.getLsbD i)).setWidth 64 := by
    apply BitVec.eq_of_getLsbD_eq
    intro k hk
    rw [getLsbD_memRead, BitVec.getLsbD_setWidth, BitVec.getLsbD_ofBool]
    by_cases h0 : k = 0
    · subst h0; simp
    · simp [h0]
  rw [h]; cases b.getLsbD i <;> rfl

/-! ## Writes -/

/-- A write replaces the bits of its span and keeps every other bit. -/
theorem getLsbD_memWrite (b : Block) (i n : Nat) (v : Word64) (hn : n ≤ 64) (k : Nat) (hk : k < 128) :
    (memWrite b i n v).getLsbD k =
      if i ≤ k ∧ k < i + n then v.getLsbD (k - i) else b.getLsbD k := by
  simp only [memWrite, BitVec.getLsbD_or, BitVec.getLsbD_and, BitVec.getLsbD_not,
    BitVec.getLsbD_shiftLeft, BitVec.getLsbD_setWidth, getLsbD_mask, hk, decide_true, Bool.true_and]
  by_cases h1 : i ≤ k
  · have h3 : ¬ k < i := by omega
    have h4 : k - i < 128 := by omega
    by_cases h2 : k < i + n
    · have h5 : k - i < n := by omega
      have h6 : k - i < 64 := by omega
      simp [h1, h2, h3, h4, h5, h6]
    · have h5 : ¬ k - i < n := by omega
      simp [h2, h3, h5]
  · have h3 : k < i := by omega
    simp [h1, h3]

/-- The frame of a write: every bit outside the span keeps its value. -/
theorem getLsbD_memWrite_of_outside (b : Block) (i n : Nat) (v : Word64) (hn : n ≤ 64) (k : Nat)
    (hk : k < i ∨ i + n ≤ k) : (memWrite b i n v).getLsbD k = b.getLsbD k := by
  by_cases h : k < 128
  · rw [getLsbD_memWrite b i n v hn k h, if_neg (by omega)]
  · rw [BitVec.getLsbD_of_ge _ _ (by omega), BitVec.getLsbD_of_ge _ _ (by omega)]

/-- Reading back a write gives the low `n` bits of the value written. -/
theorem memRead_memWrite_same (b : Block) (i n : Nat) (v : Word64) (h : LegalSpan i n) :
    memRead (memWrite b i n v) i n = v &&& mask 64 n := by
  obtain ⟨h1, h2, h3⟩ := h
  apply BitVec.eq_of_getLsbD_eq
  intro k hk
  rw [getLsbD_memRead, BitVec.getLsbD_and, getLsbD_mask]
  by_cases hkn : k < n
  · rw [getLsbD_memWrite b i n v h2 (i + k) (by omega), if_pos (by omega)]
    simp [hk, hkn]
  · simp [hkn]

/-- A read of a span disjoint from a written one is not affected. -/
theorem memRead_memWrite_disjoint (b : Block) (i n j m : Nat) (v : Word64) (hn : n ≤ 64)
    (h : j + m ≤ i ∨ i + n ≤ j) : memRead (memWrite b i n v) j m = memRead b j m := by
  apply BitVec.eq_of_getLsbD_eq
  intro k hk
  rw [getLsbD_memRead, getLsbD_memRead]
  by_cases hkm : k < m
  · rw [getLsbD_memWrite_of_outside b i n v hn (j + k) (by omega)]
  · simp [hkm]

/-- Writing back what a span holds changes nothing. -/
theorem memWrite_memRead_same (b : Block) (i n : Nat) (hn : n ≤ 64) :
    memWrite b i n (memRead b i n) = b := by
  apply BitVec.eq_of_getLsbD_eq
  intro k hk
  rw [getLsbD_memWrite b i n _ hn k hk]
  split
  · rename_i h
    rw [getLsbD_memRead, show i + (k - i) = k by omega]
    simp [show k - i < 64 by omega, show k - i < n by omega]
  · rfl

/-! ## `extract` and `store` -/

theorem extract_of_legal (low high : Word64) {i n : Nat} (h : LegalSpan i n) :
    extract low high i n = some (memRead (high ++ low) i n) := if_pos h

theorem extract_of_illegal (low high : Word64) {i n : Nat} (h : ¬ LegalSpan i n) :
    extract low high i n = none := if_neg h

theorem store_of_legal (low high : Word64) {i n : Nat} (v : Word64) (h : LegalSpan i n) :
    store low high i n v =
      some ((memWrite (high ++ low) i n v).extractLsb' 0 64,
        (memWrite (high ++ low) i n v).extractLsb' 64 64) := if_pos h

theorem store_of_illegal (low high : Word64) {i n : Nat} (v : Word64) (h : ¬ LegalSpan i n) :
    store low high i n v = none := if_neg h

/-- The two halves of a block, joined again. -/
theorem extractLsb'_append_self (b : Block) :
    (b.extractLsb' 64 64 ++ b.extractLsb' 0 64 : Block) = b := by
  apply BitVec.eq_of_getLsbD_eq
  intro k hk
  rw [BitVec.getLsbD_append]
  split
  · rw [BitVec.getLsbD_extractLsb']; simp_all
  · rename_i h
    rw [BitVec.getLsbD_extractLsb', show 64 + (k - 64) = k by omega]
    simp only [show k - 64 < 64 by omega, decide_true, Bool.true_and]

/-! ## Blocks built field by field -/

/-- `p` and `q` share no block bit. -/
abbrev Placement.Disjoint (p q : Placement) : Prop :=
  p.pos + p.width ≤ q.pos ∨ q.pos + q.width ≤ p.pos

theorem getLsbD_foldl_memWrite_outside (ps : List Placement) (b : Block) (k : Nat)
    (hw : ∀ p ∈ ps, p.width ≤ 64) (ho : ∀ p ∈ ps, k < p.pos ∨ p.pos + p.width ≤ k) :
    (ps.foldl (fun b p => memWrite b p.pos p.width p.value) b).getLsbD k = b.getLsbD k := by
  induction ps generalizing b with
  | nil => rfl
  | cons p ps ih =>
    rw [List.foldl_cons, ih _ (fun q hq => hw q (List.mem_cons_of_mem _ hq))
      (fun q hq => ho q (List.mem_cons_of_mem _ hq))]
    exact getLsbD_memWrite_of_outside b _ _ _ (hw p (List.mem_cons_self ..)) k
      (ho p (List.mem_cons_self ..))

/-- A bit that no field covers is zero: the block is freshly constructed. -/
theorem getLsbD_placeAll_outside (ps : List Placement) (k : Nat)
    (hw : ∀ p ∈ ps, p.width ≤ 64) (ho : ∀ p ∈ ps, k < p.pos ∨ p.pos + p.width ≤ k) :
    (placeAll ps).getLsbD k = false := by
  rw [placeAll, getLsbD_foldl_memWrite_outside ps _ k hw ho, BitVec.getLsbD_zero]

theorem getLsbD_foldl_memWrite_inside (ps : List Placement) (b : Block)
    (hw : ∀ p ∈ ps, p.width ≤ 64) (hd : ps.Pairwise Placement.Disjoint) (p : Placement)
    (hp : p ∈ ps) (j : Nat) (hj : j < p.width) (hr : p.pos + j < 128) :
    (ps.foldl (fun b p => memWrite b p.pos p.width p.value) b).getLsbD (p.pos + j)
      = p.value.getLsbD j := by
  induction ps generalizing b with
  | nil => cases hp
  | cons q ps ih =>
    rw [List.foldl_cons]
    rw [List.pairwise_cons] at hd
    rcases List.mem_cons.mp hp with rfl | hp
    · rw [getLsbD_foldl_memWrite_outside ps _ _ (fun r hr => hw r (List.mem_cons_of_mem _ hr))]
      · rw [getLsbD_memWrite b _ _ _ (hw p (List.mem_cons_self ..)) _ hr, if_pos (by omega)]
        congr 1; omega
      · intro r hr'
        have := hd.1 r hr'
        omega
    · exact ih _ (fun r hr => hw r (List.mem_cons_of_mem _ hr)) hd.2 hp

/-- A bit that a field covers holds that field's bit, where the fields are pairwise disjoint. -/
theorem getLsbD_placeAll_inside (ps : List Placement) (hw : ∀ p ∈ ps, p.width ≤ 64)
    (hd : ps.Pairwise Placement.Disjoint) (p : Placement) (hp : p ∈ ps) (j : Nat) (hj : j < p.width)
    (hr : p.pos + j < 128) : (placeAll ps).getLsbD (p.pos + j) = p.value.getLsbD j :=
  getLsbD_foldl_memWrite_inside ps _ hw hd p hp j hj hr

/-- Reading back one of pairwise disjoint fields gives the value placed, cut to its width. -/
theorem memRead_placeAll (ps : List Placement) (hw : ∀ p ∈ ps, p.width ≤ 64)
    (hd : ps.Pairwise Placement.Disjoint) (p : Placement) (hp : p ∈ ps) (hr : p.pos + p.width ≤ 128) :
    memRead (placeAll ps) p.pos p.width = p.value &&& mask 64 p.width := by
  apply BitVec.eq_of_getLsbD_eq
  intro k hk
  rw [getLsbD_memRead, BitVec.getLsbD_and, getLsbD_mask]
  by_cases h : k < p.width
  · rw [getLsbD_placeAll_inside ps hw hd p hp k h (by omega)]
    simp [hk, h]
  · simp [h]

/-- A value below `2^n` is not changed by the mask of `n` bits. -/
theorem and_mask_of_lt (v : Word64) (n : Nat) (h : v.toNat < 2 ^ n) : v &&& mask 64 n = v := by
  apply BitVec.eq_of_getLsbD_eq
  intro k hk
  rw [BitVec.getLsbD_and, getLsbD_mask]
  by_cases hkn : k < n
  · simp [hkn, hk]
  · have : v.getLsbD k = false := by
      rw [← BitVec.testBit_toNat]
      exact Nat.testBit_lt_two_pow (lt_of_lt_of_le h (Nat.pow_le_pow_right (by decide) (by omega)))
    rw [this]; simp

/-! ## The byte view -/

theorem getLsbD_blockByte (b : Block) (k : Fin 16) (j : Nat) :
    (blockByte b k).getLsbD j = (decide (j < 8) && b.getLsbD (8 * k.val + j)) :=
  BitVec.getLsbD_extractLsb' ..

/-! ## Register files -/

@[simp] theorem epAt_epFile (f : Fin 6 → Fin 4 → Half) (e : Fin 6) (c : Fin 4) :
    epAt (epFile f) e c = f e c := by
  simp only [epAt, epFile, Vector.getElem_ofFn]
  congr 1 <;> apply Fin.ext <;> simp only <;> omega

/-- Two endpoint files with equal components are equal. -/
theorem ep_ext {v w : EpFile} (h : ∀ e c, epAt v e c = epAt w e c) : v = w := by
  apply Vector.ext
  intro i hi
  have := h ⟨i / 4, by omega⟩ ⟨i % 4, by omega⟩
  simp only [epAt] at this
  have e : 4 * (i / 4) + i % 4 = i := by omega
  simpa only [e] using this

theorem epFile_epAt (v : EpFile) : epFile (epAt v) = v := ep_ext fun e c => by simp

end Sys2Proof
end

