-- ==== Sys2Proof/Laws/Partition.lean ====
section
/-! SUPPORT. The index fields of an array: packed one after another without a gap (spec/41_partition_tables.md
R161), their total width, and reading them; and the tables as the statements' vocabulary reads them. -/

namespace Sys2Proof

section Offsets

variable (g : Config) (fmt : Format) (ns : Nat) (p : BitVec 6) (nom : Nat)

theorem offsetAt_succ (i : Nat) :
    offsetAt g fmt ns p nom (i + 1) = offsetAt g fmt ns p nom i + widthAt g fmt ns p nom i := rfl

/-- A later field begins at or above the end of an earlier one. -/
theorem offsetAt_add_width_le {i j : Nat} (h : i < j) :
    offsetAt g fmt ns p nom i + widthAt g fmt ns p nom i ≤ offsetAt g fmt ns p nom j := by
  induction j with
  | zero => omega
  | succ j ih =>
    rw [offsetAt_succ]
    rcases Nat.lt_succ_iff_lt_or_eq.mp h with h | rfl
    · have := ih h; omega
    · omega

/-- Every bit below the end of the array lies in some field. -/
theorem exists_index_of_lt (n k : Nat) (h : k < offsetAt g fmt ns p nom n) :
    ∃ i < n, offsetAt g fmt ns p nom i ≤ k ∧
      k < offsetAt g fmt ns p nom i + widthAt g fmt ns p nom i := by
  induction n with
  | zero => simp [offsetAt] at h
  | succ n ih =>
    by_cases hk : k < offsetAt g fmt ns p nom n
    · obtain ⟨i, hi, h'⟩ := ih hk
      exact ⟨i, by omega, h'⟩
    · exact ⟨n, by omega, by omega, by rw [offsetAt_succ] at h; omega⟩

theorem widthAt_le (i : Nat) : widthAt g fmt ns p nom i ≤ nom := by
  unfold widthAt; split <;> omega

/-- The offset and the earlier anchors add up to the nominal widths of the earlier pixels (R161). -/
theorem offsetAt_add_anchors (hn : 1 ≤ nom) (i : Nat) :
    offsetAt g fmt ns p nom i + ((List.range i).filter fun j => isAnchor g fmt ns p j).length = nom * i := by
  induction i with
  | zero => simp [offsetAt]
  | succ i ih =>
    rw [offsetAt_succ, List.range_succ, List.filter_append, List.length_append, Nat.mul_succ, ← ih]
    unfold widthAt
    by_cases h : isAnchor g fmt ns p i = true <;> simp [h] <;> omega

end Offsets

/-! ## The total widths of the arrays that occur in blocks (R161) -/

theorem offsetAt_end_bc6h_two (p : BitVec 6) : offsetAt refConfig .bc6h 2 p 3 16 = 46 := by
  revert p; decide +kernel

theorem offsetAt_end_bc6h_one (p : BitVec 6) : offsetAt refConfig .bc6h 1 p 4 16 = 63 := by
  rfl

theorem offsetAt_end_bc7_three (p : BitVec 6) :
    offsetAt refConfig .bc7 3 p 3 16 = 45 ∧ offsetAt refConfig .bc7 3 p 2 16 = 29 := by
  revert p; decide +kernel

theorem offsetAt_end_bc7_two (p : BitVec 6) :
    offsetAt refConfig .bc7 2 p 3 16 = 46 ∧ offsetAt refConfig .bc7 2 p 2 16 = 30 := by
  revert p; decide +kernel

theorem offsetAt_end_bc7_one (p : BitVec 6) :
    offsetAt refConfig .bc7 1 p 2 16 = 31 ∧ offsetAt refConfig .bc7 1 p 3 16 = 47 ∧
      offsetAt refConfig .bc7 1 p 4 16 = 63 := ⟨rfl, rfl, rfl⟩

/-! ## Index arrays -/

theorem IndexArray.pos_add_width_le (g : Config) (a : IndexArray) {i j : Pixel} (h : i < j) :
    a.pos g i + a.width g i ≤ a.pos g j := by
  have := offsetAt_add_width_le g a.fmt a.ns a.part a.nom (i := i.val) (j := j.val) h
  unfold IndexArray.pos IndexArray.width
  omega

theorem IndexArray.pos_add_width_le_end (g : Config) (a : IndexArray) (i : Pixel) :
    a.pos g i + a.width g i ≤ a.first + offsetAt g a.fmt a.ns a.part a.nom 16 := by
  have := offsetAt_add_width_le g a.fmt a.ns a.part a.nom (i := i.val) (j := 16) i.isLt
  unfold IndexArray.pos IndexArray.width
  omega

theorem IndexArray.first_le_pos (g : Config) (a : IndexArray) (i : Pixel) : a.first ≤ a.pos g i := by
  unfold IndexArray.pos; omega

theorem IndexArray.width_le (g : Config) (a : IndexArray) (i : Pixel) : a.width g i ≤ a.nom :=
  widthAt_le ..

/-- The fields of one array are pairwise disjoint. -/
theorem IndexArray.placements_disjoint (g : Config) (a : IndexArray) (idx : IdxFile) :
    (a.placements g idx).Pairwise Placement.Disjoint := by
  rw [IndexArray.placements, List.pairwise_map]
  refine List.Pairwise.imp ?_ (List.pairwise_lt_finRange 16)
  intro i j h
  exact Or.inl (a.pos_add_width_le g h)

theorem IndexArray.mem_placements (g : Config) (a : IndexArray) (idx : IdxFile) (q : Placement) :
    q ∈ a.placements g idx ↔ ∃ i : Pixel, q = ⟨a.pos g i, a.width g i, idx[i].setWidth 64⟩ := by
  simp [IndexArray.placements, eq_comm]

/-- What an index array's reading is, pixel by pixel. -/
theorem IndexArray.getElem_read (g : Config) (a : IndexArray) (b : Block) (i : Pixel) :
    (a.read g b)[i] = (memRead b (a.pos g i) (a.width g i)).setWidth 4 := by
  simp [IndexArray.read]

/-- Indices read from a block fit their fields, where the nominal width is at most 4. -/
theorem IndexArray.fits_read (g : Config) (a : IndexArray) (b : Block) :
    a.fits g (a.read g b) = true := by
  simp only [IndexArray.fits, decide_eq_true_eq]
  intro i
  rw [IndexArray.getElem_read, BitVec.toNat_setWidth]
  exact Nat.lt_of_le_of_lt (Nat.mod_le _ _) (memRead_lt ..)

/-! ## The tables, as the statements read them (R158, R159) -/

theorem subsetAt_bc6h_two (p : BitVec 6) (hp : p.toNat ≤ 31) (i : Pixel) :
    (subsetAt refConfig .bc6h 2 p i).val = tableEntry p2Rows p.toNat i := by
  revert hp i; revert p; decide +kernel

theorem subsetAt_bc7_two (p : BitVec 6) (i : Pixel) :
    (subsetAt refConfig .bc7 2 p i).val = tableEntry p2Rows p.toNat i := by
  revert i; revert p; decide +kernel

theorem subsetAt_bc7_three (p : BitVec 6) (i : Pixel) :
    (subsetAt refConfig .bc7 3 p i).val = tableEntry p3Rows p.toNat i := by
  revert i; revert p; decide +kernel

theorem isAnchor_bc6h_two (p : BitVec 6) (hp : p.toNat ≤ 31) (i : Pixel) :
    isAnchor refConfig .bc6h 2 p i.val = decide (i.val ∈ Spec.anchorPixels 2 p.toNat) := by
  revert hp i; revert p; decide +kernel

theorem isAnchor_bc7_two (p : BitVec 6) (i : Pixel) :
    isAnchor refConfig .bc7 2 p i.val = decide (i.val ∈ Spec.anchorPixels 2 p.toNat) := by
  revert i; revert p; decide +kernel

theorem isAnchor_bc7_three (p : BitVec 6) (i : Pixel) :
    isAnchor refConfig .bc7 3 p i.val = decide (i.val ∈ Spec.anchorPixels 3 p.toNat) := by
  revert i; revert p; decide +kernel

end Sys2Proof
end

