-- ==== Sys2Proof/Laws/Codec6.lean ====
section
/-! SUPPORT. BC6H blocks as encodings (spec/43_bc6h_modes.md R209): where the selector, the layout entries
and the indices lie, reading a field bit by bit, and what `encodeBlock6` places. -/

namespace Sys2Proof

/-! ## The reference layouts -/

/-- The layout entries lie between the selector and the index array. -/
theorem entries6_range (m : Mode6) : ∀ e ∈ entries6 refConfig m,
    (refDesc6 m).selBits ≤ e.bit ∧ e.bit < (refDesc6 m).indexBegin := by
  cases m <;> decide +kernel

/-- No two layout entries share a block bit. -/
theorem entries6_bits_distinct (m : Mode6) :
    (entries6 refConfig m).Pairwise fun e e' => e.bit ≠ e'.bit := by
  cases m <;> decide +kernel

/-- Every block bit between the selector and the index array has its entry. -/
theorem entries6_cover (m : Mode6) : ∀ k < (refDesc6 m).indexBegin, (refDesc6 m).selBits ≤ k →
    ∃ e ∈ entries6 refConfig m, e.bit = k := by
  cases m <;> decide +kernel

/-- Every layout line has as many block bits as field bits, at least one (R193). -/
theorem line6_span (m : Mode6) : ∀ l ∈ refLayout6 m,
    l.first ≤ l.last ∧ l.lo ≤ l.hi ∧ l.hi - l.lo = l.last - l.first := by
  cases m <;> decide

/-- The entries of a line of `first ≤ last`: one for each block bit, by the two formulas of R193. -/
theorem mem_line6_entries (l : Line6) (h : l.first ≤ l.last) (e : Entry6) :
    e ∈ l.entries ↔
      ∃ k, l.first ≤ k ∧ k ≤ l.last ∧ e = ⟨k, l.field, Spec.lineBit l k⟩ := by
  simp only [Line6.entries, List.mem_map, List.mem_range, Spec.lineBit]
  constructor
  · rintro ⟨k, hk, rfl⟩
    exact ⟨l.first + k, by omega, by omega, by rw [Nat.add_sub_cancel_left]⟩
  · rintro ⟨k, h1, h2, rfl⟩
    exact ⟨k - l.first, by omega, by rw [Nat.add_sub_cancel' h1]⟩

/-- The entries of a mode are the bits of its layout lines (R193). -/
theorem mem_entries6 (m : Mode6) (e : Entry6) : e ∈ entries6 refConfig m ↔
    ∃ l ∈ refLayout6 m, ∃ k, l.first ≤ k ∧ k ≤ l.last ∧ e = ⟨k, l.field, Spec.lineBit l k⟩ := by
  rw [entries6, List.mem_flatMap]
  exact exists_congr fun l => and_congr_right fun hl => mem_line6_entries l (line6_span m l hl).1 e

/-- A bit of a layout line has its entry (R193). -/
theorem entry_of_line6 (m : Mode6) {l : Line6} (hl : l ∈ refLayout6 m) {k : Nat} (h1 : l.first ≤ k)
    (h2 : k ≤ l.last) : ⟨k, l.field, Spec.lineBit l k⟩ ∈ entries6 refConfig m :=
  (mem_entries6 m _).mpr ⟨l, hl, k, h1, h2, rfl⟩

/-- The width of a BC6H field (R191, R209 (b)). -/
def fieldWidth6 (m : Mode6) : Field6 → Nat
  | .d => if (refDesc6 m).ns = 2 then 5 else 0
  | .comp e c => compWidth6 (refDesc6 m) e c

/-- An entry's field bit is below the field's width. -/
theorem entries6_pos_lt (m : Mode6) : ∀ e ∈ entries6 refConfig m, e.pos < fieldWidth6 m e.field := by
  cases m <;> decide +kernel

/-- No two entries hold the same bit of the same field. -/
theorem entries6_fields_distinct (m : Mode6) :
    (entries6 refConfig m).Pairwise fun e e' => ¬(e.field = e'.field ∧ e.pos = e'.pos) := by
  cases m <;> decide +kernel

/-- Every bit of a component has its entry. -/
theorem entries6_comp_complete (m : Mode6) : ∀ (e : Fin 6) (c : Fin 4),
    ∀ k < compWidth6 (refDesc6 m) e c, ∃ x ∈ entries6 refConfig m, x.field = .comp e c ∧ x.pos = k := by
  cases m <;> decide +kernel

/-- Every bit of the partition field has its entry. -/
theorem entries6_d_complete (m : Mode6) : ∀ k < fieldWidth6 m .d,
    ∃ x ∈ entries6 refConfig m, x.field = .d ∧ x.pos = k := by
  cases m <;> decide +kernel

theorem entries6_complete (m : Mode6) (f : Field6) (k : Nat) (hk : k < fieldWidth6 m f) :
    ∃ x ∈ entries6 refConfig m, x.field = f ∧ x.pos = k := by
  cases f with
  | d => exact entries6_d_complete m k hk
  | comp e c => exact entries6_comp_complete m e c k hk

theorem compWidth6_le (m : Mode6) (e : Fin 6) (c : Fin 4) : compWidth6 (refDesc6 m) e c ≤ 16 := by
  revert e c; cases m <;> decide +kernel

theorem fieldWidth6_le (m : Mode6) (f : Field6) : fieldWidth6 m f ≤ 16 := by
  cases f with
  | d =>
    show (if (refDesc6 m).ns = 2 then 5 else 0) ≤ 16
    split <;> omega
  | comp e c => exact compWidth6_le m e c

/-- The index array of a BC6H block ends at bit 127. -/
theorem indexArray6_end (m : Mode6) (p : BitVec 6) :
    (refDesc6 m).indexBegin +
      offsetAt refConfig .bc6h (refDesc6 m).ns p (refDesc6 m).nom 16 = 128 := by
  cases m <;> first
    | rfl
    | exact congrArg (82 + ·) (offsetAt_end_bc6h_two p)

theorem desc6_bounds (m : Mode6) : (refDesc6 m).nom ≤ 4 ∧ 2 ≤ (refDesc6 m).nom ∧
    (refDesc6 m).selBits ≤ 5 ∧ 2 ≤ (refDesc6 m).selBits ∧ (refDesc6 m).epb ≤ 16 ∧
    (refDesc6 m).code < 2 ^ (refDesc6 m).selBits := by
  cases m <;> decide

/-! ## Reading a field -/

/-- Two different members of a list are related one way or the other. -/
theorem pairwise_or {α : Type} {R : α → α → Prop} {l : List α} (h : l.Pairwise R) {x y : α}
    (hx : x ∈ l) (hy : y ∈ l) (hxy : x ≠ y) : R x y ∨ R y x := by
  induction l with
  | nil => cases hx
  | cons a l ih =>
    rw [List.pairwise_cons] at h
    rcases List.mem_cons.mp hx with rfl | hx'
    · rcases List.mem_cons.mp hy with rfl | hy'
      · exact absurd rfl hxy
      · exact .inl (h.1 y hy')
    · rcases List.mem_cons.mp hy with rfl | hy'
      · exact .inr (h.1 x hx')
      · exact ih h.2 hx' hy'

theorem getLsbD_foldl_gather (es : List Entry6) (b : Block) (acc : Half) (k : Nat) (hk : k < 16) :
    (es.foldl (fun acc e => acc ||| ((memRead b e.bit 1).setWidth 16 <<< e.pos)) acc).getLsbD k =
      (acc.getLsbD k || es.any fun e => decide (e.pos = k) && b.getLsbD e.bit) := by
  induction es generalizing acc with
  | nil => simp
  | cons e es ih =>
    rw [List.foldl_cons, ih, List.any_cons, BitVec.getLsbD_or, Bool.or_assoc]
    congr 2
    rw [BitVec.getLsbD_shiftLeft, BitVec.getLsbD_setWidth, getLsbD_memRead]
    by_cases h : e.pos = k
    · simp [h, hk]
    · by_cases h' : k < e.pos
      · simp [h, h']
      · simp [h, h', show ¬ k - e.pos < 1 by omega]

/-- Bit `k` of a gathered field: the block bit of the entry that holds it (R101). -/
theorem getLsbD_gather (es : List Entry6) (b : Block) (f : Field6) (k : Nat) (hk : k < 16) :
    (gather es b f).getLsbD k =
      es.any fun e => decide (e.field = f) && decide (e.pos = k) && b.getLsbD e.bit := by
  rw [gather, getLsbD_foldl_gather _ _ _ _ hk, BitVec.getLsbD_zero, Bool.false_or, List.any_filter]
  simp only [Bool.and_assoc]

theorem getLsbD_gather_of_mem (m : Mode6) (b : Block) (e : Entry6) (he : e ∈ entries6 refConfig m) :
    (gather (entries6 refConfig m) b e.field).getLsbD e.pos = b.getLsbD e.bit := by
  have hk : e.pos < 16 := lt_of_lt_of_le (entries6_pos_lt m e he) (fieldWidth6_le m _)
  rw [getLsbD_gather _ _ _ _ hk]
  rw [Bool.eq_iff_iff, List.any_eq_true]
  constructor
  · rintro ⟨x, hx, h⟩
    simp only [Bool.and_eq_true, decide_eq_true_eq] at h
    by_cases hxe : x = e
    · rw [← hxe]; exact h.2
    · exfalso
      rcases pairwise_or (entries6_fields_distinct m) hx he hxe with hd | hd
      · exact hd ⟨h.1.1, h.1.2⟩
      · exact hd ⟨h.1.1.symm, h.1.2.symm⟩
  · intro h
    exact ⟨e, he, by simp [h]⟩

/-- A bit that no entry holds is zero: a field is exactly as wide as the entries say (R101). -/
theorem getLsbD_gather_of_ge (m : Mode6) (b : Block) (f : Field6) (k : Nat)
    (hk : fieldWidth6 m f ≤ k) : (gather (entries6 refConfig m) b f).getLsbD k = false := by
  by_cases h16 : k < 16
  · rw [getLsbD_gather _ _ _ _ h16, List.any_eq_false]
    intro x hx h
    simp only [Bool.and_eq_true, decide_eq_true_eq] at h
    have := entries6_pos_lt m x hx
    rw [h.1.1, h.1.2] at this
    omega
  · exact BitVec.getLsbD_of_ge _ _ (by omega)

/-- A gathered field is below `2` to its width. -/
theorem gather_lt (m : Mode6) (b : Block) (f : Field6) :
    (gather (entries6 refConfig m) b f).toNat < 2 ^ fieldWidth6 m f := by
  refine Nat.lt_pow_two_of_testBit _ fun k hk => ?_
  rw [BitVec.testBit_toNat]
  exact getLsbD_gather_of_ge m b f k hk

/-- The partition field of a one-subset mode is zero. -/
theorem fields6_part_of_one (m : Mode6) (b : Block) (h : (refDesc6 m).ns ≠ 2) :
    (fields6 refConfig m b).part = 0#5 := by
  apply BitVec.eq_of_getLsbD_eq
  intro k hk
  have hw : fieldWidth6 m .d ≤ k := by simp [fieldWidth6, h]
  simp only [fields6, BitVec.getLsbD_setWidth, getLsbD_gather_of_ge m b .d k hw, Bool.and_false,
    BitVec.getLsbD_zero]

/-- What a block's fields hold is what gathering reads. -/
theorem value6_fields6 (m : Mode6) (b : Block) (f : Field6) :
    value6 (fields6 refConfig m b) f = gather (entries6 refConfig m) b f := by
  cases f with
  | comp e c => simp [value6, fields6]
  | d =>
    apply BitVec.eq_of_getLsbD_eq
    intro k hk
    simp only [value6, fields6, BitVec.getLsbD_setWidth, hk, decide_true, Bool.true_and]
    by_cases h5 : k < 5
    · simp [h5]
    · have hw : fieldWidth6 m .d ≤ k := by
        show (if (refDesc6 m).ns = 2 then 5 else 0) ≤ k
        split <;> omega
      simp [h5, getLsbD_gather_of_ge m b .d k hw]

/-! ## What the encoder places -/

/-- The placements of `encodeBlock6` over the reference configuration. -/
def placements6 (m : Mode6) (f : Fields6) : List Placement :=
  ⟨0, (refDesc6 m).selBits, BitVec.ofNat 64 (refDesc6 m).code⟩ ::
    (scatter (entries6 refConfig m) f ++
      (indexArray6 (refDesc6 m) (f.part.setWidth 6)).placements refConfig f.idx)

theorem encodeBlock6_eq (m : Mode6) (f : Fields6) :
    encodeBlock6 refConfig m f = placeAll (placements6 m f) := rfl

theorem mem_scatter (es : List Entry6) (f : Fields6) (q : Placement) :
    q ∈ scatter es f ↔
      ∃ e ∈ es, q = ⟨e.bit, 1, (value6 f e.field >>> e.pos).setWidth 64⟩ := by
  simp [scatter, eq_comm]

theorem placements6_width_le (m : Mode6) (f : Fields6) : ∀ q ∈ placements6 m f, q.width ≤ 64 := by
  intro q hq
  have hb := desc6_bounds m
  rcases List.mem_cons.mp hq with rfl | hq
  · exact le_trans hb.2.2.1 (by decide)
  rcases List.mem_append.mp hq with hq | hq
  · obtain ⟨e, -, rfl⟩ := (mem_scatter ..).mp hq
    show 1 ≤ 64
    omega
  · obtain ⟨i, rfl⟩ := (IndexArray.mem_placements ..).mp hq
    have := (indexArray6 (refDesc6 m) (f.part.setWidth 6)).width_le refConfig i
    have h4 : (indexArray6 (refDesc6 m) (f.part.setWidth 6)).nom ≤ 4 := hb.1
    show (indexArray6 (refDesc6 m) (f.part.setWidth 6)).width refConfig i ≤ 64
    omega

theorem placements6_disjoint (m : Mode6) (f : Fields6) :
    (placements6 m f).Pairwise Placement.Disjoint := by
  have hr := entries6_range m
  rw [placements6, List.pairwise_cons, List.pairwise_append]
  refine ⟨?_, ?_, IndexArray.placements_disjoint .., ?_⟩
  · intro q hq
    rcases List.mem_append.mp hq with hq | hq
    · obtain ⟨e, he, rfl⟩ := (mem_scatter ..).mp hq
      have := hr e he
      show 0 + (refDesc6 m).selBits ≤ e.bit ∨ _
      omega
    · obtain ⟨i, rfl⟩ := (IndexArray.mem_placements ..).mp hq
      have h1 := (indexArray6 (refDesc6 m) (f.part.setWidth 6)).first_le_pos refConfig i
      have h2 : (indexArray6 (refDesc6 m) (f.part.setWidth 6)).first = (refDesc6 m).indexBegin := rfl
      have h3 : (refDesc6 m).selBits ≤ (refDesc6 m).indexBegin := by cases m <;> decide
      left
      show 0 + (refDesc6 m).selBits ≤ (indexArray6 (refDesc6 m) (f.part.setWidth 6)).pos refConfig i
      omega
  · rw [scatter, List.pairwise_map]
    refine (entries6_bits_distinct m).imp ?_
    intro e e' h
    show e.bit + 1 ≤ e'.bit ∨ e'.bit + 1 ≤ e.bit
    omega
  · intro q hq r hr'
    obtain ⟨e, he, rfl⟩ := (mem_scatter ..).mp hq
    obtain ⟨i, rfl⟩ := (IndexArray.mem_placements ..).mp hr'
    have h0 := hr e he
    have h1 := (indexArray6 (refDesc6 m) (f.part.setWidth 6)).first_le_pos refConfig i
    have h2 : (indexArray6 (refDesc6 m) (f.part.setWidth 6)).first = (refDesc6 m).indexBegin := rfl
    left
    show e.bit + 1 ≤ (indexArray6 (refDesc6 m) (f.part.setWidth 6)).pos refConfig i
    omega

/-- The selector of an encoded block is the mode's code. -/
theorem memRead_encodeBlock6_selector (m : Mode6) (f : Fields6) :
    memRead (encodeBlock6 refConfig m f) 0 (refDesc6 m).selBits =
      BitVec.ofNat 64 (refDesc6 m).code := by
  have hb := desc6_bounds m
  rw [encodeBlock6_eq]
  have := memRead_placeAll (placements6 m f) (placements6_width_le m f) (placements6_disjoint m f)
    ⟨0, (refDesc6 m).selBits, BitVec.ofNat 64 (refDesc6 m).code⟩ (List.mem_cons_self ..)
    (by show 0 + (refDesc6 m).selBits ≤ 128; omega)
  rw [this]
  apply and_mask_of_lt
  have h64 : (2 : Nat) ^ (refDesc6 m).selBits ≤ 2 ^ 64 := Nat.pow_le_pow_right (by decide) (by omega)
  show (BitVec.ofNat 64 (refDesc6 m).code).toNat < 2 ^ (refDesc6 m).selBits
  rw [BitVec.toNat_ofNat, Nat.mod_eq_of_lt (by omega)]
  exact hb.2.2.2.2.2

/-- A layout bit of an encoded block is its field's bit (R260). -/
theorem getLsbD_encodeBlock6_entry (m : Mode6) (f : Fields6) (e : Entry6)
    (he : e ∈ entries6 refConfig m) :
    (encodeBlock6 refConfig m f).getLsbD e.bit = (value6 f e.field).getLsbD e.pos := by
  have hr := entries6_range m e he
  have hI : (refDesc6 m).indexBegin ≤ 128 := by cases m <;> decide
  rw [encodeBlock6_eq]
  have := getLsbD_placeAll_inside (placements6 m f) (placements6_width_le m f)
    (placements6_disjoint m f) ⟨e.bit, 1, (value6 f e.field >>> e.pos).setWidth 64⟩
    (List.mem_cons_of_mem _ (List.mem_append_left _ ((mem_scatter ..).mpr ⟨e, he, rfl⟩))) 0
    (by show 0 < 1; decide) (by show e.bit + 0 < 128; omega)
  rw [show e.bit = e.bit + 0 from rfl, this, BitVec.getLsbD_setWidth, BitVec.getLsbD_ushiftRight]
  simp

/-- An index of an encoded block, read back, is the index cut to its width (R262). -/
theorem memRead_encodeBlock6_index (m : Mode6) (f : Fields6) (i : Pixel) :
    let a := indexArray6 (refDesc6 m) (f.part.setWidth 6)
    memRead (encodeBlock6 refConfig m f) (a.pos refConfig i) (a.width refConfig i) =
      (f.idx[i].setWidth 64) &&& mask 64 (a.width refConfig i) := by
  intro a
  rw [encodeBlock6_eq]
  exact memRead_placeAll (placements6 m f) (placements6_width_le m f) (placements6_disjoint m f)
    ⟨a.pos refConfig i, a.width refConfig i, f.idx[i].setWidth 64⟩
    (List.mem_cons_of_mem _ (List.mem_append_right _ ((IndexArray.mem_placements ..).mpr ⟨i, rfl⟩)))
    (by
      show a.pos refConfig i + a.width refConfig i ≤ 128
      have h := a.pos_add_width_le_end refConfig i
      have h' := indexArray6_end m (f.part.setWidth 6)
      have h'' : a.first + offsetAt refConfig a.fmt a.ns a.part a.nom 16 = 128 := h'
      omega)

/-- Two blocks that agree on the selector, on every layout bit and on every index are equal (R209). -/
theorem block6_ext (m : Mode6) (p : BitVec 6) (b b' : Block)
    (hs : ∀ k < (refDesc6 m).selBits, b.getLsbD k = b'.getLsbD k)
    (he : ∀ e ∈ entries6 refConfig m, b.getLsbD e.bit = b'.getLsbD e.bit)
    (hi : ∀ i : Pixel, let a := indexArray6 (refDesc6 m) p
      memRead b (a.pos refConfig i) (a.width refConfig i) =
        memRead b' (a.pos refConfig i) (a.width refConfig i)) : b = b' := by
  apply BitVec.eq_of_getLsbD_eq
  intro k hk
  by_cases h1 : k < (refDesc6 m).selBits
  · exact hs k h1
  by_cases h2 : k < (refDesc6 m).indexBegin
  · obtain ⟨e, hem, rfl⟩ := entries6_cover m k h2 (by omega)
    exact he e hem
  · have hend := indexArray6_end m p
    obtain ⟨i, hi16, hlo, hhi⟩ := exists_index_of_lt refConfig .bc6h (refDesc6 m).ns p
      (refDesc6 m).nom 16 (k - (refDesc6 m).indexBegin) (by omega)
    have hm := hi ⟨i, hi16⟩
    have hpos : (indexArray6 (refDesc6 m) p).pos refConfig ⟨i, hi16⟩ =
      (refDesc6 m).indexBegin + offsetAt refConfig .bc6h (refDesc6 m).ns p (refDesc6 m).nom i := rfl
    have hwid : (indexArray6 (refDesc6 m) p).width refConfig ⟨i, hi16⟩ =
      widthAt refConfig .bc6h (refDesc6 m).ns p (refDesc6 m).nom i := rfl
    have hw4 := widthAt_le refConfig .bc6h (refDesc6 m).ns p (refDesc6 m).nom i
    have hn := (desc6_bounds m).1
    have := congrArg (fun v => v.getLsbD
      (k - (refDesc6 m).indexBegin -
        offsetAt refConfig .bc6h (refDesc6 m).ns p (refDesc6 m).nom i)) hm
    simp only [getLsbD_memRead, hpos, hwid] at this
    rw [show (refDesc6 m).indexBegin + offsetAt refConfig .bc6h (refDesc6 m).ns p (refDesc6 m).nom i +
      (k - (refDesc6 m).indexBegin -
        offsetAt refConfig .bc6h (refDesc6 m).ns p (refDesc6 m).nom i) = k by omega] at this
    simpa [show k - (refDesc6 m).indexBegin -
        offsetAt refConfig .bc6h (refDesc6 m).ns p (refDesc6 m).nom i < 64 by omega,
      show k - (refDesc6 m).indexBegin -
        offsetAt refConfig .bc6h (refDesc6 m).ns p (refDesc6 m).nom i <
          widthAt refConfig .bc6h (refDesc6 m).ns p (refDesc6 m).nom i by omega] using this

end Sys2Proof
end

