-- ==== Sys2Proof/Laws/Codec7.lean ====
section
/-! SUPPORT. BC7 blocks as encodings (spec/46_bc7_modes.md R303): where the selector, the fields and the
index arrays lie, and what `encodeBlock7` places. -/

namespace Sys2Proof

/-! ## The reference layouts -/

/-- The fields lie between the selector and the first index array, and are 1 to 8 bits wide. -/
theorem fields7_range (m : Mode7) : ∀ x ∈ (refLayout7 m).fields,
    (refDesc7 m).number < x.2.pos ∧ x.2.pos + x.2.width ≤ (refLayout7 m).indexBegin ∧
      1 ≤ x.2.width ∧ x.2.width ≤ 8 := by
  cases m <;> decide +kernel

/-- The fields are pairwise disjoint. -/
theorem fields7_disjoint (m : Mode7) : (refLayout7 m).fields.Pairwise fun x y =>
    x.2.pos + x.2.width ≤ y.2.pos ∨ y.2.pos + y.2.width ≤ x.2.pos := by
  cases m <;> decide +kernel

/-- Every block bit between the selector and the first index array lies in a field. -/
theorem fields7_cover (m : Mode7) : ∀ k < (refLayout7 m).indexBegin, (refDesc7 m).number < k →
    ∃ x ∈ (refLayout7 m).fields, x.2.pos ≤ k ∧ k < x.2.pos + x.2.width := by
  cases m <;> decide +kernel

/-- No field is listed twice: looking a listed field up gives its span. -/
theorem fields7_lookup (m : Mode7) : ∀ x ∈ (refLayout7 m).fields,
    (refLayout7 m).fields.lookup x.1 = some x.2 := by
  cases m <;> decide +kernel

/-- The width of a BC7 field; 0 where the mode has none (R291). -/
def fieldWidth7 (m : Mode7) : Field7 → Nat
  | .part => (refDesc7 m).pb
  | .rot => (refDesc7 m).rb
  | .idxm => (refDesc7 m).isb
  | .comp e c => compWidth7 (refDesc7 m) e c
  | .pbit k => if k.val < (refDesc7 m).np then 1 else 0

/-- The layout gives every field its descriptor's width, and lists no field of width 0. -/
theorem lookup_fields7 (m : Mode7) (f : Field7) :
    (((refLayout7 m).fields.lookup f).map Span.width).getD 0 = fieldWidth7 m f := by
  cases f with
  | part => cases m <;> rfl
  | rot => cases m <;> rfl
  | idxm => cases m <;> rfl
  | comp e c => revert e c; cases m <;> decide +kernel
  | pbit k => revert k; cases m <;> decide +kernel

theorem desc7_bounds (m : Mode7) : (refDesc7 m).number ≤ 7 ∧ (refDesc7 m).ib ≤ 4 ∧
    2 ≤ (refDesc7 m).ib ∧ (refDesc7 m).number < (refLayout7 m).indexBegin := by
  cases m <;> decide

/-- Where the mode has a second index array, it follows the first and ends at bit 127; where it has none,
the first ends there. -/
theorem indexArray7_end (m : Mode7) (p : BitVec 6) :
    let e := (refLayout7 m).indexBegin +
      offsetAt refConfig .bc7 (refDesc7 m).ns p (refDesc7 m).ib 16
    match (refDesc7 m).ib2 with
    | some ib2 => e = (refLayout7 m).index2Begin ∧ 2 ≤ ib2 ∧ ib2 ≤ 4 ∧
        (refLayout7 m).index2Begin + offsetAt refConfig .bc7 1 0#6 ib2 16 = 128
    | none => e = 128 := by
  cases m
  case m0 => exact congrArg (83 + ·) (offsetAt_end_bc7_three p).1
  case m1 => exact congrArg (82 + ·) (offsetAt_end_bc7_two p).1
  case m2 => exact congrArg (99 + ·) (offsetAt_end_bc7_three p).2
  case m3 => exact congrArg (98 + ·) (offsetAt_end_bc7_two p).2
  case m4 => exact ⟨rfl, by decide, by decide, rfl⟩
  case m5 => exact ⟨rfl, by decide, by decide, rfl⟩
  case m6 => rfl
  case m7 => exact congrArg (98 + ·) (offsetAt_end_bc7_two p).2

theorem indexArray7_end_le (m : Mode7) (p : BitVec 6) :
    (refLayout7 m).indexBegin +
      offsetAt refConfig .bc7 (refDesc7 m).ns p (refDesc7 m).ib 16 ≤ 128 := by
  have h := indexArray7_end m p
  cases hb : (refDesc7 m).ib2 with
  | none => rw [hb] at h; exact le_of_eq h
  | some ib2 => rw [hb] at h; simp only at h; omega

/-! ## What the encoder places -/

/-- The placements of `encodeBlock7` over the reference configuration. -/
def placements7 (m : Mode7) (f : Fields7) : List Placement :=
  ⟨(refDesc7 m).number, 1, 1#64⟩ ::
    ((refLayout7 m).fields.map (fun x => ⟨x.2.pos, x.2.width, value7 f x.1⟩)
      ++ (indexArray7 (refDesc7 m) (refLayout7 m) f.part).placements refConfig f.idx
      ++ secondPlacements refConfig m f.idx2)

theorem encodeBlock7_eq (m : Mode7) (f : Fields7) :
    encodeBlock7 refConfig m f = placeAll (placements7 m f) := rfl

theorem mem_secondPlacements (m : Mode7) (idx2 : IdxFile) (q : Placement) :
    q ∈ secondPlacements refConfig m idx2 ↔ ∃ ib2, (refDesc7 m).ib2 = some ib2 ∧
      q ∈ (indexArray72 (refLayout7 m) ib2).placements refConfig idx2 := by
  have hd : refConfig.desc7 m = refDesc7 m := rfl
  unfold secondPlacements
  rw [hd]
  cases (refDesc7 m).ib2 with
  | none => simp
  | some ib2 =>
    constructor
    · intro h; exact ⟨ib2, rfl, h⟩
    · rintro ⟨ib, h, hq⟩; cases h; exact hq

theorem secondPlacements_disjoint (m : Mode7) (idx2 : IdxFile) :
    (secondPlacements refConfig m idx2).Pairwise Placement.Disjoint := by
  unfold secondPlacements
  split
  · exact IndexArray.placements_disjoint ..
  · exact List.Pairwise.nil

/-- The four kinds of placement: their positions and widths. -/
theorem mem_placements7_range (m : Mode7) (f : Fields7) (q : Placement) (hq : q ∈ placements7 m f) :
    q.width ≤ 8 ∧ q.pos + q.width ≤ 128 := by
  have hb := desc7_bounds m
  have hend := indexArray7_end_le m f.part
  rcases List.mem_cons.mp hq with rfl | hq
  · exact ⟨by show 1 ≤ 8; decide, by show (refDesc7 m).number + 1 ≤ 128; omega⟩
  rcases List.mem_append.mp hq with hq | hq
  · rcases List.mem_append.mp hq with hq | hq
    · obtain ⟨x, hx, rfl⟩ := List.mem_map.mp hq
      have hr := fields7_range m x hx
      exact ⟨hr.2.2.2, by show x.2.pos + x.2.width ≤ 128; omega⟩
    · obtain ⟨i, rfl⟩ := (IndexArray.mem_placements ..).mp hq
      have h1 := (indexArray7 (refDesc7 m) (refLayout7 m) f.part).pos_add_width_le_end refConfig i
      have h2 := (indexArray7 (refDesc7 m) (refLayout7 m) f.part).width_le refConfig i
      simp only [indexArray7] at h1 h2 ⊢
      exact ⟨by omega, by omega⟩
  · obtain ⟨ib2, hib, hq⟩ := (mem_secondPlacements ..).mp hq
    obtain ⟨i, rfl⟩ := (IndexArray.mem_placements ..).mp hq
    have h := indexArray7_end m f.part
    rw [hib] at h
    have h1 := (indexArray72 (refLayout7 m) ib2).pos_add_width_le_end refConfig i
    have h2 := (indexArray72 (refLayout7 m) ib2).width_le refConfig i
    simp only [indexArray72] at h h1 h2 ⊢
    exact ⟨by omega, by omega⟩

theorem placements7_disjoint (m : Mode7) (f : Fields7) :
    (placements7 m f).Pairwise Placement.Disjoint := by
  have hb := desc7_bounds m
  have hr := fields7_range m
  rw [placements7, List.pairwise_cons, List.pairwise_append, List.pairwise_append]
  have hidx : ∀ i : Pixel, (refLayout7 m).indexBegin ≤
      (indexArray7 (refDesc7 m) (refLayout7 m) f.part).pos refConfig i := fun i =>
    (indexArray7 (refDesc7 m) (refLayout7 m) f.part).first_le_pos refConfig i
  have hsec : ∀ ib2, (refDesc7 m).ib2 = some ib2 → ∀ i j : Pixel,
      (indexArray7 (refDesc7 m) (refLayout7 m) f.part).pos refConfig i +
        (indexArray7 (refDesc7 m) (refLayout7 m) f.part).width refConfig i ≤
      (indexArray72 (refLayout7 m) ib2).pos refConfig j := by
    intro ib2 hib i j
    have h := indexArray7_end m f.part
    rw [hib] at h
    have h1 := (indexArray7 (refDesc7 m) (refLayout7 m) f.part).pos_add_width_le_end refConfig i
    have h2 := (indexArray72 (refLayout7 m) ib2).first_le_pos refConfig j
    simp only [indexArray72, indexArray7] at h h1 h2 ⊢
    omega
  have hsec0 : ∀ ib2, (refDesc7 m).ib2 = some ib2 → ∀ j : Pixel,
      (refLayout7 m).indexBegin ≤ (indexArray72 (refLayout7 m) ib2).pos refConfig j := by
    intro ib2 hib j
    exact le_trans (le_trans (hidx 0) (Nat.le_add_right ..)) (hsec ib2 hib 0 j)
  refine ⟨?_, ⟨?_, IndexArray.placements_disjoint .., ?_⟩, secondPlacements_disjoint .., ?_⟩
  · intro q hq
    left
    show (refDesc7 m).number + 1 ≤ q.pos
    rcases List.mem_append.mp hq with hq | hq
    · rcases List.mem_append.mp hq with hq | hq
      · obtain ⟨x, hx, rfl⟩ := List.mem_map.mp hq
        exact (hr x hx).1
      · obtain ⟨i, rfl⟩ := (IndexArray.mem_placements ..).mp hq
        exact le_trans hb.2.2.2 (hidx i)
    · obtain ⟨ib2, hib, hq⟩ := (mem_secondPlacements ..).mp hq
      obtain ⟨i, rfl⟩ := (IndexArray.mem_placements ..).mp hq
      exact le_trans hb.2.2.2 (hsec0 ib2 hib i)
  · rw [List.pairwise_map]
    exact (fields7_disjoint m).imp fun h => h
  · intro q hq r hr'
    obtain ⟨x, hx, rfl⟩ := List.mem_map.mp hq
    obtain ⟨i, rfl⟩ := (IndexArray.mem_placements ..).mp hr'
    exact Or.inl (le_trans (hr x hx).2.1 (hidx i))
  · intro q hq r hr'
    obtain ⟨ib2, hib, hr'⟩ := (mem_secondPlacements ..).mp hr'
    obtain ⟨j, rfl⟩ := (IndexArray.mem_placements ..).mp hr'
    rcases List.mem_append.mp hq with hq | hq
    · obtain ⟨x, hx, rfl⟩ := List.mem_map.mp hq
      exact Or.inl (le_trans (hr x hx).2.1 (hsec0 ib2 hib j))
    · obtain ⟨i, rfl⟩ := (IndexArray.mem_placements ..).mp hq
      exact Or.inl (hsec ib2 hib i j)

/-- Reading back any placement of an encoded block gives its value, cut to its width. -/
theorem memRead_encodeBlock7 (m : Mode7) (f : Fields7) (q : Placement) (hq : q ∈ placements7 m f) :
    memRead (encodeBlock7 refConfig m f) q.pos q.width = q.value &&& mask 64 q.width := by
  rw [encodeBlock7_eq]
  exact memRead_placeAll (placements7 m f)
    (fun r hr => le_trans (mem_placements7_range m f r hr).1 (by decide)) (placements7_disjoint m f) q hq
    (mem_placements7_range m f q hq).2

/-- A field of an encoded block, read back (R350). -/
theorem memRead_encodeBlock7_field (m : Mode7) (f : Fields7) (x : Field7 × Span)
    (hx : x ∈ (refLayout7 m).fields) :
    memRead (encodeBlock7 refConfig m f) x.2.pos x.2.width =
      value7 f x.1 &&& mask 64 x.2.width :=
  memRead_encodeBlock7 m f ⟨x.2.pos, x.2.width, value7 f x.1⟩
    (List.mem_cons_of_mem _ (List.mem_append_left _ (List.mem_append_left _
      (List.mem_map.mpr ⟨x, hx, rfl⟩))))

/-- A first index of an encoded block, read back. -/
theorem memRead_encodeBlock7_index (m : Mode7) (f : Fields7) (i : Pixel) :
    let a := indexArray7 (refDesc7 m) (refLayout7 m) f.part
    memRead (encodeBlock7 refConfig m f) (a.pos refConfig i) (a.width refConfig i) =
      f.idx[i].setWidth 64 &&& mask 64 (a.width refConfig i) := by
  intro a
  exact memRead_encodeBlock7 m f ⟨a.pos refConfig i, a.width refConfig i, f.idx[i].setWidth 64⟩
    (List.mem_cons_of_mem _ (List.mem_append_left _ (List.mem_append_right _
      ((IndexArray.mem_placements ..).mpr ⟨i, rfl⟩))))

/-- A second index of an encoded block, read back. -/
theorem memRead_encodeBlock7_index2 (m : Mode7) (f : Fields7) (ib2 : Nat)
    (hib : (refDesc7 m).ib2 = some ib2) (i : Pixel) :
    let a := indexArray72 (refLayout7 m) ib2
    memRead (encodeBlock7 refConfig m f) (a.pos refConfig i) (a.width refConfig i) =
      f.idx2[i].setWidth 64 &&& mask 64 (a.width refConfig i) := by
  intro a
  exact memRead_encodeBlock7 m f ⟨a.pos refConfig i, a.width refConfig i, f.idx2[i].setWidth 64⟩
    (List.mem_cons_of_mem _ (List.mem_append_right _ ((mem_secondPlacements ..).mpr
      ⟨ib2, hib, (IndexArray.mem_placements ..).mpr ⟨i, rfl⟩⟩)))

/-- The selector of an encoded block: bit `m` is one and every lower bit zero. -/
theorem encodeBlock7_selector (m : Mode7) (f : Fields7) :
    (encodeBlock7 refConfig m f).getLsbD (refDesc7 m).number = true ∧
      ∀ k < (refDesc7 m).number, (encodeBlock7 refConfig m f).getLsbD k = false := by
  have hw : ∀ r ∈ placements7 m f, r.width ≤ 64 := fun r hr =>
    le_trans (mem_placements7_range m f r hr).1 (by decide)
  have hb := desc7_bounds m
  constructor
  · rw [encodeBlock7_eq]
    have := getLsbD_placeAll_inside (placements7 m f) hw (placements7_disjoint m f)
      ⟨(refDesc7 m).number, 1, 1#64⟩ (List.mem_cons_self ..) 0 (by show 0 < 1; decide)
      (by show (refDesc7 m).number + 0 < 128; omega)
    rw [show (refDesc7 m).number = (refDesc7 m).number + 0 from rfl, this]
    show (1#64).getLsbD 0 = true
    decide
  · intro k hk
    rw [encodeBlock7_eq]
    apply getLsbD_placeAll_outside _ _ hw
    intro q hq
    left
    rcases List.mem_cons.mp hq with rfl | hq'
    · exact hk
    · have hd := placements7_disjoint m f
      rw [placements7, List.pairwise_cons] at hd
      have hdq := hd.1 q hq'
      have hdq' : (refDesc7 m).number + 1 ≤ q.pos ∨ q.pos + q.width ≤ (refDesc7 m).number := hdq
      rcases hdq' with h | h
      · omega
      · exfalso
        rcases List.mem_append.mp hq' with hq' | hq'
        · rcases List.mem_append.mp hq' with hq' | hq'
          · obtain ⟨x, hx, rfl⟩ := List.mem_map.mp hq'
            have hr := fields7_range m x hx
            have h' : x.2.pos + x.2.width ≤ (refDesc7 m).number := h
            omega
          · obtain ⟨i, rfl⟩ := (IndexArray.mem_placements ..).mp hq'
            have h1 := (indexArray7 (refDesc7 m) (refLayout7 m) f.part).first_le_pos refConfig i
            simp only [indexArray7] at h h1
            omega
        · obtain ⟨ib2, hib, hq'⟩ := (mem_secondPlacements ..).mp hq'
          obtain ⟨i, rfl⟩ := (IndexArray.mem_placements ..).mp hq'
          have he := indexArray7_end m f.part
          rw [hib] at he
          have h1 := (indexArray72 (refLayout7 m) ib2).first_le_pos refConfig i
          simp only [indexArray72] at h h1 he
          omega

/-- Two blocks that agree on the selector, on every field and on every index are equal (R303). -/
theorem block7_ext (m : Mode7) (p : BitVec 6) (b b' : Block)
    (hs : ∀ k ≤ (refDesc7 m).number, b.getLsbD k = b'.getLsbD k)
    (hf : ∀ x ∈ (refLayout7 m).fields,
      memRead b x.2.pos x.2.width = memRead b' x.2.pos x.2.width)
    (hi : ∀ i : Pixel, let a := indexArray7 (refDesc7 m) (refLayout7 m) p
      memRead b (a.pos refConfig i) (a.width refConfig i) =
        memRead b' (a.pos refConfig i) (a.width refConfig i))
    (hi2 : ∀ ib2, (refDesc7 m).ib2 = some ib2 → ∀ i : Pixel,
      let a := indexArray72 (refLayout7 m) ib2
      memRead b (a.pos refConfig i) (a.width refConfig i) =
        memRead b' (a.pos refConfig i) (a.width refConfig i)) : b = b' := by
  have key : ∀ (q w k : Nat), memRead b q w = memRead b' q w → w ≤ 64 → q ≤ k → k < q + w →
      b.getLsbD k = b'.getLsbD k := by
    intro q w k h hw h1 h2
    have := congrArg (fun v => v.getLsbD (k - q)) h
    simp only [getLsbD_memRead, show q + (k - q) = k by omega] at this
    simpa [show k - q < 64 by omega, show k - q < w by omega] using this
  apply BitVec.eq_of_getLsbD_eq
  intro k hk
  have hb := desc7_bounds m
  by_cases h1 : k ≤ (refDesc7 m).number
  · exact hs k h1
  by_cases h2 : k < (refLayout7 m).indexBegin
  · obtain ⟨x, hx, hlo, hhi⟩ := fields7_cover m k h2 (by omega)
    exact key _ _ k (hf x hx) (le_trans (fields7_range m x hx).2.2.2 (by decide)) hlo hhi
  have hend := indexArray7_end m p
  by_cases h3 : k < (refLayout7 m).indexBegin +
      offsetAt refConfig .bc7 (refDesc7 m).ns p (refDesc7 m).ib 16
  · obtain ⟨i, hi16, hlo, hhi⟩ := exists_index_of_lt refConfig .bc7 (refDesc7 m).ns p
      (refDesc7 m).ib 16 (k - (refLayout7 m).indexBegin) (by omega)
    have hw := widthAt_le refConfig .bc7 (refDesc7 m).ns p (refDesc7 m).ib i
    have hm := hi ⟨i, hi16⟩
    simp only [IndexArray.pos, IndexArray.width, indexArray7] at hm
    exact key _ _ k hm (by omega) (by omega) (by omega)
  · cases hib : (refDesc7 m).ib2 with
    | none => rw [hib] at hend; simp only at hend; omega
    | some ib2 =>
      rw [hib] at hend
      simp only at hend
      obtain ⟨i, hi16, hlo, hhi⟩ := exists_index_of_lt refConfig .bc7 1 0#6 ib2 16
        (k - (refLayout7 m).index2Begin) (by omega)
      have hw := widthAt_le refConfig .bc7 1 0#6 ib2 i
      have hm := hi2 ib2 hib ⟨i, hi16⟩
      simp only [IndexArray.pos, IndexArray.width, indexArray72] at hm
      exact key _ _ k hm (by omega) (by omega) (by omega)

end Sys2Proof
end

