-- ==== Sys2Proof/Laws/Exec.lean ====
section
/-! SUPPORT. The meanings of the command families and of the block rows, each family at once; and what a
step does with each transaction. -/

namespace Sys2Proof.Machine

theorem exec_bc6hPack (m : Mode6) (s : State) :
    exec (.bc6hPack m) s = .next (pack6 refConfig m s) := by cases m <;> rfl

theorem exec_bc7Pack (m : Mode7) (s : State) :
    exec (.bc7Pack m) s = .next (pack7 refConfig m s) := by cases m <;> rfl

theorem exec_blk6 (m : Mode6) (f : Fields6) (s : State) :
    exec (.blk6 m f) s = .next (live6 refConfig m s.signed f s) := by cases m <;> rfl

theorem exec_blk7 (m : Mode7) (f : Fields7) (s : State) :
    exec (.blk7 m f) s = .next (live7 refConfig m f s) := by cases m <;> rfl

theorem exec_blk6Unknown (sel : BitVec 5) (rest : BitVec 123) (s : State) :
    exec (.blk6Unknown sel rest) s = .next (sentinel6 refConfig s) := rfl

theorem exec_blk7Reserved (rest : BitVec 120) (s : State) :
    exec (.blk7Reserved rest) s = .next (s.raise .dataFormat) := rfl

theorem exec_bc6hUnpackU (s : State) : exec .bc6hUnpackU s = .next (unpack6 refConfig false s) := rfl

theorem exec_bc6hUnpackS (s : State) : exec .bc6hUnpackS s = .next (unpack6 refConfig true s) := rfl

theorem exec_bc7Unpack (s : State) : exec .bc7Unpack s = .next (unpack7 refConfig s) := rfl

/-- A BC6H unpack does what the row of the decoded block does, in the command's profile. -/
theorem exec_decodeBlock6 (s : State) :
    exec (decodeBlock6 refConfig s.blk) s = .next (unpack6 refConfig s.signed s) := by
  unfold decodeBlock6 unpack6
  cases h : modeOf6 s.blk with
  | none => exact exec_blk6Unknown ..
  | some m => exact exec_blk6 ..

/-- A BC7 unpack does what the row of the decoded block does. -/
theorem exec_decodeBlock7 (s : State) :
    exec (decodeBlock7 refConfig s.blk) s = .next (unpack7 refConfig s) := by
  unfold decodeBlock7 unpack7
  cases h : modeOf7 s.blk with
  | none => exact exec_blk7Reserved ..
  | some m => exact exec_blk7 ..

/-! ## Every instruction, by shape -/

/-- The shapes of an instruction: a statement about every instruction follows from one case per shape. -/
theorem instr_cases {P : Instr → Prop} (nop : P .nop) (bfExtract : P .bfExtract) (bfStore : P .bfStore)
    (ptSubset : P .ptSubset) (ptIdxWidth : P .ptIdxWidth) (ptIdxOffset : P .ptIdxOffset)
    (bc6hModeOf : P .bc6hModeOf) (bc6hUnpackU : P .bc6hUnpackU) (bc6hUnpackS : P .bc6hUnpackS)
    (bc6hPack : ∀ m, P (.bc6hPack m)) (bc7ModeOf : P .bc7ModeOf) (bc7Unpack : P .bc7Unpack)
    (bc7Pack : ∀ m, P (.bc7Pack m)) (blk6 : ∀ m f, P (.blk6 m f))
    (blk6Unknown : ∀ sel rest, P (.blk6Unknown sel rest)) (blk7 : ∀ m f, P (.blk7 m f))
    (blk7Reserved : ∀ rest, P (.blk7Reserved rest)) (i : Instr) : P i := by
  cases i with
  | nop => exact nop
  | bfExtract => exact bfExtract
  | bfStore => exact bfStore
  | ptSubset => exact ptSubset
  | ptIdxWidth => exact ptIdxWidth
  | ptIdxOffset => exact ptIdxOffset
  | bc6hModeOf => exact bc6hModeOf
  | bc6hUnpackU => exact bc6hUnpackU
  | bc6hUnpackS => exact bc6hUnpackS
  | bc6hPackM0 => exact bc6hPack .m0
  | bc6hPackM1 => exact bc6hPack .m1
  | bc6hPackM2 => exact bc6hPack .m2
  | bc6hPackM3 => exact bc6hPack .m3
  | bc6hPackM6 => exact bc6hPack .m6
  | bc6hPackM7 => exact bc6hPack .m7
  | bc6hPackM10 => exact bc6hPack .m10
  | bc6hPackM11 => exact bc6hPack .m11
  | bc6hPackM14 => exact bc6hPack .m14
  | bc6hPackM15 => exact bc6hPack .m15
  | bc6hPackM18 => exact bc6hPack .m18
  | bc6hPackM22 => exact bc6hPack .m22
  | bc6hPackM26 => exact bc6hPack .m26
  | bc6hPackM30 => exact bc6hPack .m30
  | bc7ModeOf => exact bc7ModeOf
  | bc7Unpack => exact bc7Unpack
  | bc7PackM0 => exact bc7Pack .m0
  | bc7PackM1 => exact bc7Pack .m1
  | bc7PackM2 => exact bc7Pack .m2
  | bc7PackM3 => exact bc7Pack .m3
  | bc7PackM4 => exact bc7Pack .m4
  | bc7PackM5 => exact bc7Pack .m5
  | bc7PackM6 => exact bc7Pack .m6
  | bc7PackM7 => exact bc7Pack .m7
  | blk6M0 f => exact blk6 .m0 f
  | blk6M1 f => exact blk6 .m1 f
  | blk6M2 f => exact blk6 .m2 f
  | blk6M3 f => exact blk6 .m3 f
  | blk6M6 f => exact blk6 .m6 f
  | blk6M7 f => exact blk6 .m7 f
  | blk6M10 f => exact blk6 .m10 f
  | blk6M11 f => exact blk6 .m11 f
  | blk6M14 f => exact blk6 .m14 f
  | blk6M15 f => exact blk6 .m15 f
  | blk6M18 f => exact blk6 .m18 f
  | blk6M22 f => exact blk6 .m22 f
  | blk6M26 f => exact blk6 .m26 f
  | blk6M30 f => exact blk6 .m30 f
  | blk6Unknown sel rest => exact blk6Unknown sel rest
  | blk7M0 f => exact blk7 .m0 f
  | blk7M1 f => exact blk7 .m1 f
  | blk7M2 f => exact blk7 .m2 f
  | blk7M3 f => exact blk7 .m3 f
  | blk7M4 f => exact blk7 .m4 f
  | blk7M5 f => exact blk7 .m5 f
  | blk7M6 f => exact blk7 .m6 f
  | blk7M7 f => exact blk7 .m7 f
  | blk7Reserved rest => exact blk7Reserved rest

/-! ## A step, by the next transaction -/

theorem step_nil (s : State) (h : s.script = []) : step s = .next s := by
  simp only [step, advance, h]

theorem step_cons (s : State) (t : HostOp) (rest : List HostOp) (h : s.script = t :: rest) :
    step s = transact t (s.setScript rest) := by simp only [step, advance, h]

theorem step_rd (s : State) (n : BitVec 8) (rest : List HostOp) (h : s.script = .rd n :: rest) :
    step s = .next ((s.setScript rest).pushRead (hostRead (s.setScript rest) n)) := by
  rw [step_cons s _ rest h, transact]

theorem step_wr (s : State) (n : BitVec 8) (v : Word64) (rest : List HostOp)
    (h : s.script = .wr n v :: rest) (hn : regOfNumber n ≠ some .cmd) :
    step s = .next (hostWrite (s.setScript rest) n v) := by
  rw [step_cons s _ rest h, transact, if_neg hn]

theorem step_wr_cmd (s : State) (v : Word64) (rest : List HostOp) (h : s.script = .wr 2#8 v :: rest) :
    step s = runCommand (v.setWidth 32) (s.setScript rest) := by
  rw [step_cons s _ rest h, transact, if_pos (by decide)]

end Sys2Proof.Machine
end

