-- ==== Sys2Proof/Laws/PerInstr.lean ====
section
/-! SUPPORT. The per-instruction family `SelectorStands`: the encoding of a well-formed instruction has the
bits that its row of spec/opcode_table.json fixes. One lemma per constructor of `Instr`. -/

namespace Sys2Proof.Laws.SelectorStands

/-- The mask and the match of an instruction's row of spec/opcode_table.json. -/
def row : Instr → Nat × Nat
  | .nop => (0xFFFFFFFF, 0x00000000)
  | .bfExtract => (0xFFFFFFFF, 0x00000001)
  | .bfStore => (0xFFFFFFFF, 0x00000002)
  | .ptSubset => (0xFFFFFFFF, 0x00000003)
  | .ptIdxWidth => (0xFFFFFFFF, 0x00000004)
  | .ptIdxOffset => (0xFFFFFFFF, 0x00000005)
  | .bc6hModeOf => (0xFFFFFFFF, 0x00000006)
  | .bc6hUnpackU => (0xFFFFFFFF, 0x00000007)
  | .bc6hUnpackS => (0xFFFFFFFF, 0x00000207)
  | .bc6hPackM0 => (0xFFFFFFFF, 0x00000008)
  | .bc6hPackM1 => (0xFFFFFFFF, 0x00000018)
  | .bc6hPackM2 => (0xFFFFFFFF, 0x00000028)
  | .bc6hPackM3 => (0xFFFFFFFF, 0x00000038)
  | .bc6hPackM6 => (0xFFFFFFFF, 0x00000068)
  | .bc6hPackM7 => (0xFFFFFFFF, 0x00000078)
  | .bc6hPackM10 => (0xFFFFFFFF, 0x000000A8)
  | .bc6hPackM11 => (0xFFFFFFFF, 0x000000B8)
  | .bc6hPackM14 => (0xFFFFFFFF, 0x000000E8)
  | .bc6hPackM15 => (0xFFFFFFFF, 0x000000F8)
  | .bc6hPackM18 => (0xFFFFFFFF, 0x00000128)
  | .bc6hPackM22 => (0xFFFFFFFF, 0x00000168)
  | .bc6hPackM26 => (0xFFFFFFFF, 0x000001A8)
  | .bc6hPackM30 => (0xFFFFFFFF, 0x000001E8)
  | .bc7ModeOf => (0xFFFFFFFF, 0x00000009)
  | .bc7Unpack => (0xFFFFFFFF, 0x0000000A)
  | .bc7PackM0 => (0xFFFFFFFF, 0x0000000B)
  | .bc7PackM1 => (0xFFFFFFFF, 0x0000001B)
  | .bc7PackM2 => (0xFFFFFFFF, 0x0000002B)
  | .bc7PackM3 => (0xFFFFFFFF, 0x0000003B)
  | .bc7PackM4 => (0xFFFFFFFF, 0x0000004B)
  | .bc7PackM5 => (0xFFFFFFFF, 0x0000005B)
  | .bc7PackM6 => (0xFFFFFFFF, 0x0000006B)
  | .bc7PackM7 => (0xFFFFFFFF, 0x0000007B)
  | .blk6M0 _ => (0x03, 0x00)
  | .blk6M1 _ => (0x03, 0x01)
  | .blk6M2 _ => (0x1F, 0x02)
  | .blk6M3 _ => (0x1F, 0x03)
  | .blk6M6 _ => (0x1F, 0x06)
  | .blk6M7 _ => (0x1F, 0x07)
  | .blk6M10 _ => (0x1F, 0x0A)
  | .blk6M11 _ => (0x1F, 0x0B)
  | .blk6M14 _ => (0x1F, 0x0E)
  | .blk6M15 _ => (0x1F, 0x0F)
  | .blk6M18 _ => (0x1F, 0x12)
  | .blk6M22 _ => (0x1F, 0x16)
  | .blk6M26 _ => (0x1F, 0x1A)
  | .blk6M30 _ => (0x1F, 0x1E)
  | .blk6Unknown _ _ => (0x13, 0x13)
  | .blk7M0 _ => (0x01, 0x01)
  | .blk7M1 _ => (0x03, 0x02)
  | .blk7M2 _ => (0x07, 0x04)
  | .blk7M3 _ => (0x0F, 0x08)
  | .blk7M4 _ => (0x1F, 0x10)
  | .blk7M5 _ => (0x3F, 0x20)
  | .blk7M6 _ => (0x7F, 0x40)
  | .blk7M7 _ => (0xFF, 0x80)
  | .blk7Reserved _ => (0xFF, 0x00)

/-- The bits of an encoding, as the table numbers them. -/
def codeBits : Code → Nat
  | .cmd w => w.toNat
  | .block6 b | .block7 b => b.toNat

/-- A well-formed instruction's encoding agrees with its row's match wherever the row's mask is set. -/
def Statement (i : Instr) : Prop :=
  WellFormed i = true → codeBits (encode refConfig i) &&& (row i).1 = (row i).2

/-- The low bits of an encoded BC6H block are its mode's code. -/
theorem block6_low (m : Mode6) (f : Fields6) :
    (encodeBlock6 refConfig m f).toNat &&& (2 ^ (refDesc6 m).selBits - 1) = (refDesc6 m).code := by
  have hs : (refDesc6 m).selBits ≤ 64 := by cases m <;> decide
  have hc : (BitVec.ofNat 64 (refDesc6 m).code).toNat = (refDesc6 m).code := by cases m <;> rfl
  rw [Nat.and_two_pow_sub_one_eq_mod]
  conv_rhs => rw [← hc, ← memRead_encodeBlock6_selector m f]
  apply Nat.eq_of_testBit_eq
  intro k
  rw [Nat.testBit_mod_two_pow, BitVec.testBit_toNat, BitVec.testBit_toNat, getLsbD_memRead]
  rcases lt_or_ge k (refDesc6 m).selBits with hk | hk
  · have : k < 64 := by omega
    simp [hk, this]
  · simp [Nat.not_lt.mpr hk]

/-- The low bits of an encoded BC7 block are its mode's unary selector. -/
theorem block7_low (m : Mode7) (f : Fields7) :
    (encodeBlock7 refConfig m f).toNat &&& (2 ^ ((refDesc7 m).number + 1) - 1) =
      2 ^ (refDesc7 m).number := by
  obtain ⟨h1, h0⟩ := encodeBlock7_selector m f
  rw [Nat.and_two_pow_sub_one_eq_mod]
  apply Nat.eq_of_testBit_eq
  intro k
  rw [Nat.testBit_mod_two_pow, Nat.testBit_two_pow, ← BitVec.getLsbD]
  rcases Nat.lt_trichotomy k (refDesc7 m).number with hk | rfl | hk
  · rw [h0 k hk]; simp; omega
  · rw [h1]; simp
  · have : ¬ k < (refDesc7 m).number + 1 := by omega
    simp [this]; omega

theorem nop : Statement .nop := fun _ => by decide
theorem bfExtract : Statement .bfExtract := fun _ => by decide
theorem bfStore : Statement .bfStore := fun _ => by decide
theorem ptSubset : Statement .ptSubset := fun _ => by decide
theorem ptIdxWidth : Statement .ptIdxWidth := fun _ => by decide
theorem ptIdxOffset : Statement .ptIdxOffset := fun _ => by decide
theorem bc6hModeOf : Statement .bc6hModeOf := fun _ => by decide
theorem bc6hUnpackU : Statement .bc6hUnpackU := fun _ => by decide
theorem bc6hUnpackS : Statement .bc6hUnpackS := fun _ => by decide
theorem bc6hPackM0 : Statement .bc6hPackM0 := fun _ => by decide
theorem bc6hPackM1 : Statement .bc6hPackM1 := fun _ => by decide
theorem bc6hPackM2 : Statement .bc6hPackM2 := fun _ => by decide
theorem bc6hPackM3 : Statement .bc6hPackM3 := fun _ => by decide
theorem bc6hPackM6 : Statement .bc6hPackM6 := fun _ => by decide
theorem bc6hPackM7 : Statement .bc6hPackM7 := fun _ => by decide
theorem bc6hPackM10 : Statement .bc6hPackM10 := fun _ => by decide
theorem bc6hPackM11 : Statement .bc6hPackM11 := fun _ => by decide
theorem bc6hPackM14 : Statement .bc6hPackM14 := fun _ => by decide
theorem bc6hPackM15 : Statement .bc6hPackM15 := fun _ => by decide
theorem bc6hPackM18 : Statement .bc6hPackM18 := fun _ => by decide
theorem bc6hPackM22 : Statement .bc6hPackM22 := fun _ => by decide
theorem bc6hPackM26 : Statement .bc6hPackM26 := fun _ => by decide
theorem bc6hPackM30 : Statement .bc6hPackM30 := fun _ => by decide
theorem bc7ModeOf : Statement .bc7ModeOf := fun _ => by decide
theorem bc7Unpack : Statement .bc7Unpack := fun _ => by decide
theorem bc7PackM0 : Statement .bc7PackM0 := fun _ => by decide
theorem bc7PackM1 : Statement .bc7PackM1 := fun _ => by decide
theorem bc7PackM2 : Statement .bc7PackM2 := fun _ => by decide
theorem bc7PackM3 : Statement .bc7PackM3 := fun _ => by decide
theorem bc7PackM4 : Statement .bc7PackM4 := fun _ => by decide
theorem bc7PackM5 : Statement .bc7PackM5 := fun _ => by decide
theorem bc7PackM6 : Statement .bc7PackM6 := fun _ => by decide
theorem bc7PackM7 : Statement .bc7PackM7 := fun _ => by decide
theorem blk6M0 (f : Fields6) : Statement (.blk6M0 f) := fun _ => block6_low .m0 f
theorem blk6M1 (f : Fields6) : Statement (.blk6M1 f) := fun _ => block6_low .m1 f
theorem blk6M2 (f : Fields6) : Statement (.blk6M2 f) := fun _ => block6_low .m2 f
theorem blk6M3 (f : Fields6) : Statement (.blk6M3 f) := fun _ => block6_low .m3 f
theorem blk6M6 (f : Fields6) : Statement (.blk6M6 f) := fun _ => block6_low .m6 f
theorem blk6M7 (f : Fields6) : Statement (.blk6M7 f) := fun _ => block6_low .m7 f
theorem blk6M10 (f : Fields6) : Statement (.blk6M10 f) := fun _ => block6_low .m10 f
theorem blk6M11 (f : Fields6) : Statement (.blk6M11 f) := fun _ => block6_low .m11 f
theorem blk6M14 (f : Fields6) : Statement (.blk6M14 f) := fun _ => block6_low .m14 f
theorem blk6M15 (f : Fields6) : Statement (.blk6M15 f) := fun _ => block6_low .m15 f
theorem blk6M18 (f : Fields6) : Statement (.blk6M18 f) := fun _ => block6_low .m18 f
theorem blk6M22 (f : Fields6) : Statement (.blk6M22 f) := fun _ => block6_low .m22 f
theorem blk6M26 (f : Fields6) : Statement (.blk6M26 f) := fun _ => block6_low .m26 f
theorem blk6M30 (f : Fields6) : Statement (.blk6M30 f) := fun _ => block6_low .m30 f
theorem blk6Unknown (sel : BitVec 5) (rest : BitVec 123) : Statement (.blk6Unknown sel rest) := by
  intro h
  have key : ∀ s : BitVec 5, Instr.wf refConfig (.blk6Unknown s 0#123) = true →
      s.toNat &&& 0x13 = 0x13 := by decide
  have hs := key sel h
  show (rest ++ sel).toNat &&& 0x13 = 0x13
  have h31 : (0x13 : Nat) = (2 ^ 5 - 1) &&& 0x13 := rfl
  rw [h31, ← Nat.and_assoc, Nat.and_two_pow_sub_one_eq_mod, BitVec.toNat_append, Nat.shiftLeft_eq,
    Nat.or_mod_two_pow, Nat.mul_mod_left, Nat.zero_or, Nat.mod_eq_of_lt sel.isLt, hs, ← h31]
theorem blk7M0 (f : Fields7) : Statement (.blk7M0 f) := fun _ => block7_low .m0 f
theorem blk7M1 (f : Fields7) : Statement (.blk7M1 f) := fun _ => block7_low .m1 f
theorem blk7M2 (f : Fields7) : Statement (.blk7M2 f) := fun _ => block7_low .m2 f
theorem blk7M3 (f : Fields7) : Statement (.blk7M3 f) := fun _ => block7_low .m3 f
theorem blk7M4 (f : Fields7) : Statement (.blk7M4 f) := fun _ => block7_low .m4 f
theorem blk7M5 (f : Fields7) : Statement (.blk7M5 f) := fun _ => block7_low .m5 f
theorem blk7M6 (f : Fields7) : Statement (.blk7M6 f) := fun _ => block7_low .m6 f
theorem blk7M7 (f : Fields7) : Statement (.blk7M7 f) := fun _ => block7_low .m7 f
theorem blk7Reserved (rest : BitVec 120) : Statement (.blk7Reserved rest) := by
  intro _
  show (rest ++ 0#8).toNat &&& (2 ^ 8 - 1) = 0
  rw [Nat.and_two_pow_sub_one_eq_mod, BitVec.toNat_append, Nat.shiftLeft_eq]
  simp

end Sys2Proof.Laws.SelectorStands
end

