-- ==== Sys2Proof/Laws/Script.lean ====
section
/-! SUPPORT. What the scripts of the source's operations write (spec/49_host_and_system.md R386). -/

namespace Sys2Proof.Machine

/-- The extras written are those that the mode's descriptor has (R291): `ROT` with rotation bits, `IDX2`
with a second index array, `IDXM` with an index mode bit. -/
theorem setExtras7_eq (m : Mode7) (rot : BitVec 2) (idxm : BitVec 1) (idx2 : IdxFile) :
    setExtras7 m rot idxm idx2 =
      (if 0 < (refDesc7 m).rb then [wr .rot rot.toNat] else []) ++
      (if (refDesc7 m).ib2.isSome then setIdx2 idx2 else []) ++
      (if 0 < (refDesc7 m).isb then [wr .idxm idxm.toNat] else []) := by
  cases m <;> rfl

end Sys2Proof.Machine
end

