-- ==== Sys2Proof/Laws/State.lean ====
section
/-! SUPPORT. What each named update of the state does to each field: one lemma per field per update, true
by `rfl`. No later proof unfolds an update. -/

namespace Sys2Proof.Machine

variable (s : State)

/-! ## `setCmd` -/

@[simp] theorem State.setCmd_blkLo (w : Word32) : (s.setCmd w).blkLo = s.blkLo := rfl
@[simp] theorem State.setCmd_blkHi (w : Word32) : (s.setCmd w).blkHi = s.blkHi := rfl
@[simp] theorem State.setCmd_cmd (w : Word32) : (s.setCmd w).cmd = w := rfl
@[simp] theorem State.setCmd_status (w : Word32) : (s.setCmd w).status = s.status := rfl
@[simp] theorem State.setCmd_part (w : Word32) : (s.setCmd w).part = s.part := rfl
@[simp] theorem State.setCmd_pbits (w : Word32) : (s.setCmd w).pbits = s.pbits := rfl
@[simp] theorem State.setCmd_rot (w : Word32) : (s.setCmd w).rot = s.rot := rfl
@[simp] theorem State.setCmd_idxm (w : Word32) : (s.setCmd w).idxm = s.idxm := rfl
@[simp] theorem State.setCmd_bfIndex (w : Word32) : (s.setCmd w).bfIndex = s.bfIndex := rfl
@[simp] theorem State.setCmd_bfCount (w : Word32) : (s.setCmd w).bfCount = s.bfCount := rfl
@[simp] theorem State.setCmd_bfValue (w : Word32) : (s.setCmd w).bfValue = s.bfValue := rfl
@[simp] theorem State.setCmd_ptq (w : Word32) : (s.setCmd w).ptq = s.ptq := rfl
@[simp] theorem State.setCmd_ptr (w : Word32) : (s.setCmd w).ptr = s.ptr := rfl
@[simp] theorem State.setCmd_ep (w : Word32) : (s.setCmd w).ep = s.ep := rfl
@[simp] theorem State.setCmd_idx (w : Word32) : (s.setCmd w).idx = s.idx := rfl
@[simp] theorem State.setCmd_idx2 (w : Word32) : (s.setCmd w).idx2 = s.idx2 := rfl
@[simp] theorem State.setCmd_tex (w : Word32) : (s.setCmd w).tex = s.tex := rfl
@[simp] theorem State.setCmd_script (w : Word32) : (s.setCmd w).script = s.script := rfl
@[simp] theorem State.setCmd_readLog (w : Word32) : (s.setCmd w).readLog = s.readLog := rfl

/-! ## `setStatus` -/

@[simp] theorem State.setStatus_blkLo (w : Word32) : (s.setStatus w).blkLo = s.blkLo := rfl
@[simp] theorem State.setStatus_blkHi (w : Word32) : (s.setStatus w).blkHi = s.blkHi := rfl
@[simp] theorem State.setStatus_cmd (w : Word32) : (s.setStatus w).cmd = s.cmd := rfl
@[simp] theorem State.setStatus_status (w : Word32) : (s.setStatus w).status = w := rfl
@[simp] theorem State.setStatus_part (w : Word32) : (s.setStatus w).part = s.part := rfl
@[simp] theorem State.setStatus_pbits (w : Word32) : (s.setStatus w).pbits = s.pbits := rfl
@[simp] theorem State.setStatus_rot (w : Word32) : (s.setStatus w).rot = s.rot := rfl
@[simp] theorem State.setStatus_idxm (w : Word32) : (s.setStatus w).idxm = s.idxm := rfl
@[simp] theorem State.setStatus_bfIndex (w : Word32) : (s.setStatus w).bfIndex = s.bfIndex := rfl
@[simp] theorem State.setStatus_bfCount (w : Word32) : (s.setStatus w).bfCount = s.bfCount := rfl
@[simp] theorem State.setStatus_bfValue (w : Word32) : (s.setStatus w).bfValue = s.bfValue := rfl
@[simp] theorem State.setStatus_ptq (w : Word32) : (s.setStatus w).ptq = s.ptq := rfl
@[simp] theorem State.setStatus_ptr (w : Word32) : (s.setStatus w).ptr = s.ptr := rfl
@[simp] theorem State.setStatus_ep (w : Word32) : (s.setStatus w).ep = s.ep := rfl
@[simp] theorem State.setStatus_idx (w : Word32) : (s.setStatus w).idx = s.idx := rfl
@[simp] theorem State.setStatus_idx2 (w : Word32) : (s.setStatus w).idx2 = s.idx2 := rfl
@[simp] theorem State.setStatus_tex (w : Word32) : (s.setStatus w).tex = s.tex := rfl
@[simp] theorem State.setStatus_script (w : Word32) : (s.setStatus w).script = s.script := rfl
@[simp] theorem State.setStatus_readLog (w : Word32) : (s.setStatus w).readLog = s.readLog := rfl

/-! ## `setBlk` -/

@[simp] theorem State.setBlk_blkLo (b : Block) : (s.setBlk b).blkLo = b.extractLsb' 0 64 := rfl
@[simp] theorem State.setBlk_blkHi (b : Block) : (s.setBlk b).blkHi = b.extractLsb' 64 64 := rfl
@[simp] theorem State.setBlk_cmd (b : Block) : (s.setBlk b).cmd = s.cmd := rfl
@[simp] theorem State.setBlk_status (b : Block) : (s.setBlk b).status = s.status := rfl
@[simp] theorem State.setBlk_part (b : Block) : (s.setBlk b).part = s.part := rfl
@[simp] theorem State.setBlk_pbits (b : Block) : (s.setBlk b).pbits = s.pbits := rfl
@[simp] theorem State.setBlk_rot (b : Block) : (s.setBlk b).rot = s.rot := rfl
@[simp] theorem State.setBlk_idxm (b : Block) : (s.setBlk b).idxm = s.idxm := rfl
@[simp] theorem State.setBlk_bfIndex (b : Block) : (s.setBlk b).bfIndex = s.bfIndex := rfl
@[simp] theorem State.setBlk_bfCount (b : Block) : (s.setBlk b).bfCount = s.bfCount := rfl
@[simp] theorem State.setBlk_bfValue (b : Block) : (s.setBlk b).bfValue = s.bfValue := rfl
@[simp] theorem State.setBlk_ptq (b : Block) : (s.setBlk b).ptq = s.ptq := rfl
@[simp] theorem State.setBlk_ptr (b : Block) : (s.setBlk b).ptr = s.ptr := rfl
@[simp] theorem State.setBlk_ep (b : Block) : (s.setBlk b).ep = s.ep := rfl
@[simp] theorem State.setBlk_idx (b : Block) : (s.setBlk b).idx = s.idx := rfl
@[simp] theorem State.setBlk_idx2 (b : Block) : (s.setBlk b).idx2 = s.idx2 := rfl
@[simp] theorem State.setBlk_tex (b : Block) : (s.setBlk b).tex = s.tex := rfl
@[simp] theorem State.setBlk_script (b : Block) : (s.setBlk b).script = s.script := rfl
@[simp] theorem State.setBlk_readLog (b : Block) : (s.setBlk b).readLog = s.readLog := rfl

/-! ## `setBfValue` -/

@[simp] theorem State.setBfValue_blkLo (v : Word64) : (s.setBfValue v).blkLo = s.blkLo := rfl
@[simp] theorem State.setBfValue_blkHi (v : Word64) : (s.setBfValue v).blkHi = s.blkHi := rfl
@[simp] theorem State.setBfValue_cmd (v : Word64) : (s.setBfValue v).cmd = s.cmd := rfl
@[simp] theorem State.setBfValue_status (v : Word64) : (s.setBfValue v).status = s.status := rfl
@[simp] theorem State.setBfValue_part (v : Word64) : (s.setBfValue v).part = s.part := rfl
@[simp] theorem State.setBfValue_pbits (v : Word64) : (s.setBfValue v).pbits = s.pbits := rfl
@[simp] theorem State.setBfValue_rot (v : Word64) : (s.setBfValue v).rot = s.rot := rfl
@[simp] theorem State.setBfValue_idxm (v : Word64) : (s.setBfValue v).idxm = s.idxm := rfl
@[simp] theorem State.setBfValue_bfIndex (v : Word64) : (s.setBfValue v).bfIndex = s.bfIndex := rfl
@[simp] theorem State.setBfValue_bfCount (v : Word64) : (s.setBfValue v).bfCount = s.bfCount := rfl
@[simp] theorem State.setBfValue_bfValue (v : Word64) : (s.setBfValue v).bfValue = v := rfl
@[simp] theorem State.setBfValue_ptq (v : Word64) : (s.setBfValue v).ptq = s.ptq := rfl
@[simp] theorem State.setBfValue_ptr (v : Word64) : (s.setBfValue v).ptr = s.ptr := rfl
@[simp] theorem State.setBfValue_ep (v : Word64) : (s.setBfValue v).ep = s.ep := rfl
@[simp] theorem State.setBfValue_idx (v : Word64) : (s.setBfValue v).idx = s.idx := rfl
@[simp] theorem State.setBfValue_idx2 (v : Word64) : (s.setBfValue v).idx2 = s.idx2 := rfl
@[simp] theorem State.setBfValue_tex (v : Word64) : (s.setBfValue v).tex = s.tex := rfl
@[simp] theorem State.setBfValue_script (v : Word64) : (s.setBfValue v).script = s.script := rfl
@[simp] theorem State.setBfValue_readLog (v : Word64) : (s.setBfValue v).readLog = s.readLog := rfl

/-! ## `setPtr` -/

@[simp] theorem State.setPtr_blkLo (v : BitVec 8) : (s.setPtr v).blkLo = s.blkLo := rfl
@[simp] theorem State.setPtr_blkHi (v : BitVec 8) : (s.setPtr v).blkHi = s.blkHi := rfl
@[simp] theorem State.setPtr_cmd (v : BitVec 8) : (s.setPtr v).cmd = s.cmd := rfl
@[simp] theorem State.setPtr_status (v : BitVec 8) : (s.setPtr v).status = s.status := rfl
@[simp] theorem State.setPtr_part (v : BitVec 8) : (s.setPtr v).part = s.part := rfl
@[simp] theorem State.setPtr_pbits (v : BitVec 8) : (s.setPtr v).pbits = s.pbits := rfl
@[simp] theorem State.setPtr_rot (v : BitVec 8) : (s.setPtr v).rot = s.rot := rfl
@[simp] theorem State.setPtr_idxm (v : BitVec 8) : (s.setPtr v).idxm = s.idxm := rfl
@[simp] theorem State.setPtr_bfIndex (v : BitVec 8) : (s.setPtr v).bfIndex = s.bfIndex := rfl
@[simp] theorem State.setPtr_bfCount (v : BitVec 8) : (s.setPtr v).bfCount = s.bfCount := rfl
@[simp] theorem State.setPtr_bfValue (v : BitVec 8) : (s.setPtr v).bfValue = s.bfValue := rfl
@[simp] theorem State.setPtr_ptq (v : BitVec 8) : (s.setPtr v).ptq = s.ptq := rfl
@[simp] theorem State.setPtr_ptr (v : BitVec 8) : (s.setPtr v).ptr = v := rfl
@[simp] theorem State.setPtr_ep (v : BitVec 8) : (s.setPtr v).ep = s.ep := rfl
@[simp] theorem State.setPtr_idx (v : BitVec 8) : (s.setPtr v).idx = s.idx := rfl
@[simp] theorem State.setPtr_idx2 (v : BitVec 8) : (s.setPtr v).idx2 = s.idx2 := rfl
@[simp] theorem State.setPtr_tex (v : BitVec 8) : (s.setPtr v).tex = s.tex := rfl
@[simp] theorem State.setPtr_script (v : BitVec 8) : (s.setPtr v).script = s.script := rfl
@[simp] theorem State.setPtr_readLog (v : BitVec 8) : (s.setPtr v).readLog = s.readLog := rfl

/-! ## `setScript` -/

@[simp] theorem State.setScript_blkLo (t : List HostOp) : (s.setScript t).blkLo = s.blkLo := rfl
@[simp] theorem State.setScript_blkHi (t : List HostOp) : (s.setScript t).blkHi = s.blkHi := rfl
@[simp] theorem State.setScript_cmd (t : List HostOp) : (s.setScript t).cmd = s.cmd := rfl
@[simp] theorem State.setScript_status (t : List HostOp) : (s.setScript t).status = s.status := rfl
@[simp] theorem State.setScript_part (t : List HostOp) : (s.setScript t).part = s.part := rfl
@[simp] theorem State.setScript_pbits (t : List HostOp) : (s.setScript t).pbits = s.pbits := rfl
@[simp] theorem State.setScript_rot (t : List HostOp) : (s.setScript t).rot = s.rot := rfl
@[simp] theorem State.setScript_idxm (t : List HostOp) : (s.setScript t).idxm = s.idxm := rfl
@[simp] theorem State.setScript_bfIndex (t : List HostOp) : (s.setScript t).bfIndex = s.bfIndex := rfl
@[simp] theorem State.setScript_bfCount (t : List HostOp) : (s.setScript t).bfCount = s.bfCount := rfl
@[simp] theorem State.setScript_bfValue (t : List HostOp) : (s.setScript t).bfValue = s.bfValue := rfl
@[simp] theorem State.setScript_ptq (t : List HostOp) : (s.setScript t).ptq = s.ptq := rfl
@[simp] theorem State.setScript_ptr (t : List HostOp) : (s.setScript t).ptr = s.ptr := rfl
@[simp] theorem State.setScript_ep (t : List HostOp) : (s.setScript t).ep = s.ep := rfl
@[simp] theorem State.setScript_idx (t : List HostOp) : (s.setScript t).idx = s.idx := rfl
@[simp] theorem State.setScript_idx2 (t : List HostOp) : (s.setScript t).idx2 = s.idx2 := rfl
@[simp] theorem State.setScript_tex (t : List HostOp) : (s.setScript t).tex = s.tex := rfl
@[simp] theorem State.setScript_script (t : List HostOp) : (s.setScript t).script = t := rfl
@[simp] theorem State.setScript_readLog (t : List HostOp) : (s.setScript t).readLog = s.readLog := rfl

/-! ## `pushRead` -/

@[simp] theorem State.pushRead_blkLo (v : Word64) : (s.pushRead v).blkLo = s.blkLo := rfl
@[simp] theorem State.pushRead_blkHi (v : Word64) : (s.pushRead v).blkHi = s.blkHi := rfl
@[simp] theorem State.pushRead_cmd (v : Word64) : (s.pushRead v).cmd = s.cmd := rfl
@[simp] theorem State.pushRead_status (v : Word64) : (s.pushRead v).status = s.status := rfl
@[simp] theorem State.pushRead_part (v : Word64) : (s.pushRead v).part = s.part := rfl
@[simp] theorem State.pushRead_pbits (v : Word64) : (s.pushRead v).pbits = s.pbits := rfl
@[simp] theorem State.pushRead_rot (v : Word64) : (s.pushRead v).rot = s.rot := rfl
@[simp] theorem State.pushRead_idxm (v : Word64) : (s.pushRead v).idxm = s.idxm := rfl
@[simp] theorem State.pushRead_bfIndex (v : Word64) : (s.pushRead v).bfIndex = s.bfIndex := rfl
@[simp] theorem State.pushRead_bfCount (v : Word64) : (s.pushRead v).bfCount = s.bfCount := rfl
@[simp] theorem State.pushRead_bfValue (v : Word64) : (s.pushRead v).bfValue = s.bfValue := rfl
@[simp] theorem State.pushRead_ptq (v : Word64) : (s.pushRead v).ptq = s.ptq := rfl
@[simp] theorem State.pushRead_ptr (v : Word64) : (s.pushRead v).ptr = s.ptr := rfl
@[simp] theorem State.pushRead_ep (v : Word64) : (s.pushRead v).ep = s.ep := rfl
@[simp] theorem State.pushRead_idx (v : Word64) : (s.pushRead v).idx = s.idx := rfl
@[simp] theorem State.pushRead_idx2 (v : Word64) : (s.pushRead v).idx2 = s.idx2 := rfl
@[simp] theorem State.pushRead_tex (v : Word64) : (s.pushRead v).tex = s.tex := rfl
@[simp] theorem State.pushRead_script (v : Word64) : (s.pushRead v).script = s.script := rfl
@[simp] theorem State.pushRead_readLog (v : Word64) : (s.pushRead v).readLog = s.readLog ++ [v] := rfl

/-! ## `writeUnpacked` -/

@[simp] theorem State.writeUnpacked_blkLo (u : Unpacked) : (s.writeUnpacked u).blkLo = s.blkLo := rfl
@[simp] theorem State.writeUnpacked_blkHi (u : Unpacked) : (s.writeUnpacked u).blkHi = s.blkHi := rfl
@[simp] theorem State.writeUnpacked_cmd (u : Unpacked) : (s.writeUnpacked u).cmd = s.cmd := rfl
@[simp] theorem State.writeUnpacked_status (u : Unpacked) : (s.writeUnpacked u).status = s.status := rfl
@[simp] theorem State.writeUnpacked_part (u : Unpacked) : (s.writeUnpacked u).part = u.part := rfl
@[simp] theorem State.writeUnpacked_pbits (u : Unpacked) : (s.writeUnpacked u).pbits = u.pbits := rfl
@[simp] theorem State.writeUnpacked_rot (u : Unpacked) : (s.writeUnpacked u).rot = u.rot := rfl
@[simp] theorem State.writeUnpacked_idxm (u : Unpacked) : (s.writeUnpacked u).idxm = u.idxm := rfl
@[simp] theorem State.writeUnpacked_bfIndex (u : Unpacked) : (s.writeUnpacked u).bfIndex = s.bfIndex := rfl
@[simp] theorem State.writeUnpacked_bfCount (u : Unpacked) : (s.writeUnpacked u).bfCount = s.bfCount := rfl
@[simp] theorem State.writeUnpacked_bfValue (u : Unpacked) : (s.writeUnpacked u).bfValue = s.bfValue := rfl
@[simp] theorem State.writeUnpacked_ptq (u : Unpacked) : (s.writeUnpacked u).ptq = s.ptq := rfl
@[simp] theorem State.writeUnpacked_ptr (u : Unpacked) : (s.writeUnpacked u).ptr = s.ptr := rfl
@[simp] theorem State.writeUnpacked_ep (u : Unpacked) : (s.writeUnpacked u).ep = u.ep := rfl
@[simp] theorem State.writeUnpacked_idx (u : Unpacked) : (s.writeUnpacked u).idx = u.idx := rfl
@[simp] theorem State.writeUnpacked_idx2 (u : Unpacked) : (s.writeUnpacked u).idx2 = u.idx2 := rfl
@[simp] theorem State.writeUnpacked_tex (u : Unpacked) : (s.writeUnpacked u).tex = u.tex := rfl
@[simp] theorem State.writeUnpacked_script (u : Unpacked) : (s.writeUnpacked u).script = s.script := rfl
@[simp] theorem State.writeUnpacked_readLog (u : Unpacked) : (s.writeUnpacked u).readLog = s.readLog := rfl

/-! ## How a command ends: `STATUS` and nothing else -/

@[simp] theorem State.complete_blkLo (sent : Bool) (m : BitVec 5) (n : BitVec 2) : (s.complete sent m n).blkLo = s.blkLo := rfl
@[simp] theorem State.complete_blkHi (sent : Bool) (m : BitVec 5) (n : BitVec 2) : (s.complete sent m n).blkHi = s.blkHi := rfl
@[simp] theorem State.complete_cmd (sent : Bool) (m : BitVec 5) (n : BitVec 2) : (s.complete sent m n).cmd = s.cmd := rfl
@[simp] theorem State.complete_part (sent : Bool) (m : BitVec 5) (n : BitVec 2) : (s.complete sent m n).part = s.part := rfl
@[simp] theorem State.complete_pbits (sent : Bool) (m : BitVec 5) (n : BitVec 2) : (s.complete sent m n).pbits = s.pbits := rfl
@[simp] theorem State.complete_rot (sent : Bool) (m : BitVec 5) (n : BitVec 2) : (s.complete sent m n).rot = s.rot := rfl
@[simp] theorem State.complete_idxm (sent : Bool) (m : BitVec 5) (n : BitVec 2) : (s.complete sent m n).idxm = s.idxm := rfl
@[simp] theorem State.complete_bfIndex (sent : Bool) (m : BitVec 5) (n : BitVec 2) : (s.complete sent m n).bfIndex = s.bfIndex := rfl
@[simp] theorem State.complete_bfCount (sent : Bool) (m : BitVec 5) (n : BitVec 2) : (s.complete sent m n).bfCount = s.bfCount := rfl
@[simp] theorem State.complete_bfValue (sent : Bool) (m : BitVec 5) (n : BitVec 2) : (s.complete sent m n).bfValue = s.bfValue := rfl
@[simp] theorem State.complete_ptq (sent : Bool) (m : BitVec 5) (n : BitVec 2) : (s.complete sent m n).ptq = s.ptq := rfl
@[simp] theorem State.complete_ptr (sent : Bool) (m : BitVec 5) (n : BitVec 2) : (s.complete sent m n).ptr = s.ptr := rfl
@[simp] theorem State.complete_ep (sent : Bool) (m : BitVec 5) (n : BitVec 2) : (s.complete sent m n).ep = s.ep := rfl
@[simp] theorem State.complete_idx (sent : Bool) (m : BitVec 5) (n : BitVec 2) : (s.complete sent m n).idx = s.idx := rfl
@[simp] theorem State.complete_idx2 (sent : Bool) (m : BitVec 5) (n : BitVec 2) : (s.complete sent m n).idx2 = s.idx2 := rfl
@[simp] theorem State.complete_tex (sent : Bool) (m : BitVec 5) (n : BitVec 2) : (s.complete sent m n).tex = s.tex := rfl
@[simp] theorem State.complete_script (sent : Bool) (m : BitVec 5) (n : BitVec 2) : (s.complete sent m n).script = s.script := rfl
@[simp] theorem State.complete_readLog (sent : Bool) (m : BitVec 5) (n : BitVec 2) : (s.complete sent m n).readLog = s.readLog := rfl

@[simp] theorem State.completePlain_blkLo : (s.completePlain).blkLo = s.blkLo := rfl
@[simp] theorem State.completePlain_blkHi : (s.completePlain).blkHi = s.blkHi := rfl
@[simp] theorem State.completePlain_cmd : (s.completePlain).cmd = s.cmd := rfl
@[simp] theorem State.completePlain_part : (s.completePlain).part = s.part := rfl
@[simp] theorem State.completePlain_pbits : (s.completePlain).pbits = s.pbits := rfl
@[simp] theorem State.completePlain_rot : (s.completePlain).rot = s.rot := rfl
@[simp] theorem State.completePlain_idxm : (s.completePlain).idxm = s.idxm := rfl
@[simp] theorem State.completePlain_bfIndex : (s.completePlain).bfIndex = s.bfIndex := rfl
@[simp] theorem State.completePlain_bfCount : (s.completePlain).bfCount = s.bfCount := rfl
@[simp] theorem State.completePlain_bfValue : (s.completePlain).bfValue = s.bfValue := rfl
@[simp] theorem State.completePlain_ptq : (s.completePlain).ptq = s.ptq := rfl
@[simp] theorem State.completePlain_ptr : (s.completePlain).ptr = s.ptr := rfl
@[simp] theorem State.completePlain_ep : (s.completePlain).ep = s.ep := rfl
@[simp] theorem State.completePlain_idx : (s.completePlain).idx = s.idx := rfl
@[simp] theorem State.completePlain_idx2 : (s.completePlain).idx2 = s.idx2 := rfl
@[simp] theorem State.completePlain_tex : (s.completePlain).tex = s.tex := rfl
@[simp] theorem State.completePlain_script : (s.completePlain).script = s.script := rfl
@[simp] theorem State.completePlain_readLog : (s.completePlain).readLog = s.readLog := rfl

@[simp] theorem State.raise_blkLo (e : Err) : (s.raise e).blkLo = s.blkLo := rfl
@[simp] theorem State.raise_blkHi (e : Err) : (s.raise e).blkHi = s.blkHi := rfl
@[simp] theorem State.raise_cmd (e : Err) : (s.raise e).cmd = s.cmd := rfl
@[simp] theorem State.raise_part (e : Err) : (s.raise e).part = s.part := rfl
@[simp] theorem State.raise_pbits (e : Err) : (s.raise e).pbits = s.pbits := rfl
@[simp] theorem State.raise_rot (e : Err) : (s.raise e).rot = s.rot := rfl
@[simp] theorem State.raise_idxm (e : Err) : (s.raise e).idxm = s.idxm := rfl
@[simp] theorem State.raise_bfIndex (e : Err) : (s.raise e).bfIndex = s.bfIndex := rfl
@[simp] theorem State.raise_bfCount (e : Err) : (s.raise e).bfCount = s.bfCount := rfl
@[simp] theorem State.raise_bfValue (e : Err) : (s.raise e).bfValue = s.bfValue := rfl
@[simp] theorem State.raise_ptq (e : Err) : (s.raise e).ptq = s.ptq := rfl
@[simp] theorem State.raise_ptr (e : Err) : (s.raise e).ptr = s.ptr := rfl
@[simp] theorem State.raise_ep (e : Err) : (s.raise e).ep = s.ep := rfl
@[simp] theorem State.raise_idx (e : Err) : (s.raise e).idx = s.idx := rfl
@[simp] theorem State.raise_idx2 (e : Err) : (s.raise e).idx2 = s.idx2 := rfl
@[simp] theorem State.raise_tex (e : Err) : (s.raise e).tex = s.tex := rfl
@[simp] theorem State.raise_script (e : Err) : (s.raise e).script = s.script := rfl
@[simp] theorem State.raise_readLog (e : Err) : (s.raise e).readLog = s.readLog := rfl

@[simp] theorem State.complete_status (sent : Bool) (m : BitVec 5) (n : BitVec 2) :
    (s.complete sent m n).status = statusWord s.status 0#3 sent m n := rfl
@[simp] theorem State.completePlain_status :
    s.completePlain.status = statusWord s.status 0#3 false 0#5 0#2 := rfl
@[simp] theorem State.raise_status (e : Err) : (s.raise e).status = statusWord s.status (errCode e) false
    (if e = .dataFormat then modeReserved else 0#5) 0#2 := rfl

/-! ## The block and the profile -/

@[simp] theorem State.setBlk_blk (b : Block) : (s.setBlk b).blk = b := by
  apply BitVec.eq_of_getLsbD_eq
  intro i hi
  simp only [State.blk, State.setBlk_blkLo, State.setBlk_blkHi, BitVec.getLsbD_append,
    BitVec.getLsbD_extractLsb']
  split
  · simp_all
  · rename_i h
    rw [show 64 + (i - 64) = i by omega]
    simp only [show i - 64 < 64 by omega, decide_true, Bool.true_and]

@[simp] theorem State.setCmd_blk (w : Word32) : (s.setCmd w).blk = s.blk := rfl
@[simp] theorem State.setStatus_blk (w : Word32) : (s.setStatus w).blk = s.blk := rfl
@[simp] theorem State.setBfValue_blk (v : Word64) : (s.setBfValue v).blk = s.blk := rfl
@[simp] theorem State.setPtr_blk (v : BitVec 8) : (s.setPtr v).blk = s.blk := rfl
@[simp] theorem State.setScript_blk (t : List HostOp) : (s.setScript t).blk = s.blk := rfl
@[simp] theorem State.pushRead_blk (v : Word64) : (s.pushRead v).blk = s.blk := rfl
@[simp] theorem State.writeUnpacked_blk (u : Unpacked) : (s.writeUnpacked u).blk = s.blk := rfl
@[simp] theorem State.complete_blk (sent : Bool) (m : BitVec 5) (n : BitVec 2) : (s.complete sent m n).blk = s.blk := rfl
@[simp] theorem State.completePlain_blk : (s.completePlain).blk = s.blk := rfl
@[simp] theorem State.raise_blk (e : Err) : (s.raise e).blk = s.blk := rfl
@[simp] theorem State.setStatus_signed (w : Word32) : (s.setStatus w).signed = s.signed := rfl
@[simp] theorem State.setBlk_signed (b : Block) : (s.setBlk b).signed = s.signed := rfl
@[simp] theorem State.setBfValue_signed (v : Word64) : (s.setBfValue v).signed = s.signed := rfl
@[simp] theorem State.setPtr_signed (v : BitVec 8) : (s.setPtr v).signed = s.signed := rfl
@[simp] theorem State.setScript_signed (t : List HostOp) : (s.setScript t).signed = s.signed := rfl
@[simp] theorem State.pushRead_signed (v : Word64) : (s.pushRead v).signed = s.signed := rfl
@[simp] theorem State.writeUnpacked_signed (u : Unpacked) : (s.writeUnpacked u).signed = s.signed := rfl
@[simp] theorem State.setCmd_signed (w : Word32) : (s.setCmd w).signed = signedField w := rfl

/-- Writing the two halves of the block back leaves it as it is. -/
theorem State.setBlk_self : s.setBlk s.blk = s := by
  have hlo : s.blk.extractLsb' 0 64 = s.blkLo := by
    apply BitVec.eq_of_getLsbD_eq
    intro i hi
    rw [BitVec.getLsbD_extractLsb', State.blk, BitVec.getLsbD_append]
    simp only [hi, Nat.zero_add, decide_true, Bool.true_and, if_true]
  have hhi : s.blk.extractLsb' 64 64 = s.blkHi := by
    apply BitVec.eq_of_getLsbD_eq
    intro i hi
    rw [BitVec.getLsbD_extractLsb', State.blk, BitVec.getLsbD_append, if_neg (by omega)]
    simp only [hi, decide_true, Bool.true_and, Nat.add_sub_cancel_left]
  simp only [State.setBlk, hlo, hhi]

end Sys2Proof.Machine
end

