-- ==== Sys2Proof/Laws/Status.lean ====
section
/-! SUPPORT. The fields of a `STATUS` word written by `statusWord`, and what completing and faulting make
of `STATUS` (spec/10_state.md R25, spec/60_exceptions.md R405). -/

namespace Sys2Proof.Machine

variable (old : Word32) (err : BitVec 3) (sent : Bool) (mode : BitVec 5) (ns : BitVec 2)

@[simp] theorem statusDone_statusWord : statusDone (statusWord old err sent mode ns) = true := by
  simp only [statusDone, statusWord]; rw [BitVec.getLsbD_append]; simp

@[simp] theorem statusErr_statusWord : statusErr (statusWord old err sent mode ns) = err := by
  simp only [statusErr, statusWord]
  apply BitVec.eq_of_getLsbD_eq
  intro i hi
  rw [BitVec.getLsbD_extractLsb', BitVec.getLsbD_append, BitVec.getLsbD_append]
  simp only [hi, decide_true, Bool.true_and]
  rw [if_neg (by omega), show 1 + i - 1 = i by omega, if_pos hi]

@[simp] theorem statusSent_statusWord : statusSent (statusWord old err sent mode ns) = sent := by
  simp only [statusSent, statusWord]
  rw [BitVec.getLsbD_append, BitVec.getLsbD_append, BitVec.getLsbD_append]
  simp

@[simp] theorem statusSticky_statusWord :
    statusSticky (statusWord old err sent mode ns) = (statusSticky old || err != 0#3) := by
  conv_lhs => simp only [statusSticky, statusWord]
  rw [BitVec.getLsbD_append, BitVec.getLsbD_append, BitVec.getLsbD_append, BitVec.getLsbD_append]
  simp only [statusSticky]
  simp

@[simp] theorem statusMode_statusWord : statusMode (statusWord old err sent mode ns) = mode := by
  simp only [statusMode, statusWord]
  apply BitVec.eq_of_getLsbD_eq
  intro i hi
  rw [BitVec.getLsbD_extractLsb', BitVec.getLsbD_append, BitVec.getLsbD_append, BitVec.getLsbD_append,
    BitVec.getLsbD_append, BitVec.getLsbD_append]
  simp only [hi, decide_true, Bool.true_and]
  rw [if_neg (by omega), if_neg (by omega), if_neg (by omega), if_neg (by omega), if_pos (by omega)]
  congr 1; omega

@[simp] theorem statusNs_statusWord : statusNs (statusWord old err sent mode ns) = ns := by
  simp only [statusNs, statusWord]
  apply BitVec.eq_of_getLsbD_eq
  intro i hi
  rw [BitVec.getLsbD_extractLsb', BitVec.getLsbD_append, BitVec.getLsbD_append, BitVec.getLsbD_append,
    BitVec.getLsbD_append, BitVec.getLsbD_append, BitVec.getLsbD_append]
  simp only [hi, decide_true, Bool.true_and]
  rw [if_neg (by omega), if_neg (by omega), if_neg (by omega), if_neg (by omega), if_neg (by omega),
    if_pos (by omega)]
  congr 1; omega

@[simp] theorem statusReserved_statusWord :
    (statusWord old err sent mode ns).extractLsb' 13 19 = 0#19 := by
  simp only [statusWord]
  apply BitVec.eq_of_getLsbD_eq
  intro i hi
  rw [BitVec.getLsbD_extractLsb', BitVec.getLsbD_append, BitVec.getLsbD_append, BitVec.getLsbD_append,
    BitVec.getLsbD_append, BitVec.getLsbD_append, BitVec.getLsbD_append]
  simp only [hi, decide_true, Bool.true_and]
  rw [if_neg (by omega), if_neg (by omega), if_neg (by omega), if_neg (by omega), if_neg (by omega),
    if_neg (by omega), BitVec.getLsbD_zero, BitVec.getLsbD_zero]

theorem errCode_ne_zero (e : Err) : errCode e ≠ 0#3 := by cases e <;> decide

theorem errCode_le (e : Err) : (errCode e).toNat ≤ 5 := by cases e <;> decide

/-- The whole of `raise`: the state before it but for `STATUS`, whose `ERR` is the fault's code and whose
`STICKY` is set. -/
theorem State.raise_spec (s : State) (e : Err) :
    (s.raise e) = { s with status := (s.raise e).status } ∧
    statusErr (s.raise e).status = errCode e ∧
    statusSticky (s.raise e).status = true ∧
    statusDone (s.raise e).status = true ∧ statusSent (s.raise e).status = false ∧
    statusMode (s.raise e).status = (if e = .dataFormat then modeReserved else 0#5) ∧
    statusNs (s.raise e).status = 0#2 := by
  have := errCode_ne_zero e
  refine ⟨rfl, ?_, ?_, ?_, ?_, ?_, ?_⟩ <;> simp [this]

/-- The whole of completing: the state before it but for `STATUS`, which reports the arguments and keeps
`STICKY`. -/
theorem State.complete_spec (s : State) (sent : Bool) (mode : BitVec 5) (ns : BitVec 2) :
    (s.complete sent mode ns) = { s with status := (s.complete sent mode ns).status } ∧
    statusErr (s.complete sent mode ns).status = 0#3 ∧
    statusSticky (s.complete sent mode ns).status = statusSticky s.status ∧
    statusDone (s.complete sent mode ns).status = true ∧
    statusSent (s.complete sent mode ns).status = sent ∧
    statusMode (s.complete sent mode ns).status = mode ∧
    statusNs (s.complete sent mode ns).status = ns := by
  refine ⟨rfl, ?_, ?_, ?_, ?_, ?_, ?_⟩ <;> simp

end Sys2Proof.Machine
end

