-- ==== Sys2Proof/Laws/Shape.lean ====
section
/-! SUPPORT. How every instruction ends: in a fault, or by completing with one group of registers
written. A statement about all instructions follows from `exec_shape` without unfolding a meaning. -/

namespace Sys2Proof.Machine

/-- A BC7 unpack faults, or writes the decoded registers. -/
theorem unpack7_cases (s : State) : unpack7 refConfig s = s.raise .dataFormat ∨
    ∃ u m n, unpack7 refConfig s = (s.writeUnpacked u).complete false m n := by
  unfold unpack7; split
  · exact .inr ⟨_, _, _, rfl⟩
  · exact .inl rfl
/-- A BC6H unpack writes the decoded registers. -/
theorem unpack6_cases (signed : Bool) (s : State) :
    ∃ u b m n, unpack6 refConfig signed s = (s.writeUnpacked u).complete b m n := by
  unfold unpack6; split
  · exact ⟨_, _, _, _, rfl⟩
  · exact ⟨_, _, _, _, rfl⟩

/-- An instruction ends in a fault it may raise, or completes a state that differs from the one before in
at most one of: the registers an unpack writes, the block, `BF_VALUE`, `PTR`. -/
theorem exec_shape (i : Instr) (s t : State) (h : exec i s = .next t) :
    (∃ e, t = s.raise e ∧ (errCode e).toNat ∈ Spec.errorCodes i) ∨
    (∃ s' b m n, t = s'.complete b m n ∧ s'.status = s.status ∧ 0 ∈ Spec.errorCodes i ∧
      (s' = s ∨
       (∃ u, s' = s.writeUnpacked u ∧ Spec.unpacks i = true) ∨
       (∃ b, s' = s.setBlk b ∧ (Spec.packs i = true ∨ i = .bfStore)) ∨
       (∃ v, s' = s.setBfValue v ∧ i = .bfExtract) ∨
       (∃ v, s' = s.setPtr v ∧ (i = .ptSubset ∨ i = .ptIdxWidth ∨ i = .ptIdxOffset)))) := by
  induction i using instr_cases with
  | nop => cases h; exact .inr ⟨s, _, _, _, rfl, rfl, by decide, .inl rfl⟩
  | bfExtract =>
    simp only [exec, execBfExtract] at h
    split at h <;> cases h
    · exact .inr ⟨_, _, _, _, rfl, rfl, by decide, .inr (.inr (.inr (.inl ⟨_, rfl, rfl⟩)))⟩
    · exact .inl ⟨_, rfl, by decide⟩
  | bfStore =>
    simp only [exec, execBfStore] at h
    split at h <;> cases h
    · exact .inr ⟨_, _, _, _, rfl, rfl, by decide, .inr (.inr (.inl ⟨_, rfl, .inr rfl⟩))⟩
    · exact .inl ⟨_, rfl, by decide⟩
  | ptSubset =>
    simp only [exec, execPtSubset, State.answerQuery] at h
    split at h <;> cases h
    · exact .inr ⟨_, _, _, _, rfl, rfl, by decide, .inr (.inr (.inr (.inr ⟨_, rfl, by simp⟩)))⟩
    · exact .inl ⟨_, rfl, by decide⟩
  | ptIdxWidth =>
    simp only [exec, execPtIdxWidth, State.answerQuery] at h
    split at h <;> cases h
    · exact .inr ⟨_, _, _, _, rfl, rfl, by decide, .inr (.inr (.inr (.inr ⟨_, rfl, by simp⟩)))⟩
    · exact .inl ⟨_, rfl, by decide⟩
  | ptIdxOffset =>
    simp only [exec, execPtIdxOffset, State.answerQuery] at h
    split at h <;> cases h
    · exact .inr ⟨_, _, _, _, rfl, rfl, by decide, .inr (.inr (.inr (.inr ⟨_, rfl, by simp⟩)))⟩
    · exact .inl ⟨_, rfl, by decide⟩
  | bc6hModeOf =>
    simp only [exec, execBc6hModeOf] at h
    split at h <;> cases h <;> exact .inr ⟨s, _, _, _, rfl, rfl, by decide, .inl rfl⟩
  | bc7ModeOf =>
    simp only [exec, execBc7ModeOf] at h
    split at h <;> cases h <;> exact .inr ⟨s, _, _, _, rfl, rfl, by decide, .inl rfl⟩
  | bc6hUnpackU =>
    obtain ⟨u, b, m, n, hu⟩ := unpack6_cases false s
    rw [exec_bc6hUnpackU, hu] at h
    cases h
    exact .inr ⟨_, _, _, _, rfl, rfl, by decide, .inr (.inl ⟨_, rfl, rfl⟩)⟩
  | bc6hUnpackS =>
    obtain ⟨u, b, m, n, hu⟩ := unpack6_cases true s
    rw [exec_bc6hUnpackS, hu] at h
    cases h
    exact .inr ⟨_, _, _, _, rfl, rfl, by decide, .inr (.inl ⟨_, rfl, rfl⟩)⟩
  | bc7Unpack =>
    rw [exec_bc7Unpack] at h
    rcases unpack7_cases s with hu | ⟨u, m, n, hu⟩ <;> rw [hu] at h <;> cases h
    · exact .inl ⟨_, rfl, by decide⟩
    · exact .inr ⟨_, _, _, _, rfl, rfl, by decide, .inr (.inl ⟨_, rfl, rfl⟩)⟩
  | bc6hPack m =>
    rw [exec_bc6hPack, pack6] at h
    have hp : Spec.packs (.bc6hPack m) = true := by cases m <;> rfl
    have hc : Spec.errorCodes (.bc6hPack m) = [0,2] := by cases m <;> rfl
    split at h <;> cases h
    · exact .inr ⟨_, _, _, _, rfl, rfl, by rw [hc]; decide, .inr (.inr (.inl ⟨_, rfl, .inl hp⟩))⟩
    · exact .inl ⟨_, rfl, by rw [hc]; decide⟩
  | bc7Pack m =>
    rw [exec_bc7Pack, pack7] at h
    have hp : Spec.packs (.bc7Pack m) = true := by cases m <;> rfl
    have hc : Spec.errorCodes (.bc7Pack m) = [0,2] := by cases m <;> rfl
    split at h <;> cases h
    · exact .inr ⟨_, _, _, _, rfl, rfl, by rw [hc]; decide, .inr (.inr (.inl ⟨_, rfl, .inl hp⟩))⟩
    · exact .inl ⟨_, rfl, by rw [hc]; decide⟩
  | blk6 m f =>
    rw [exec_blk6, live6] at h; cases h
    have hp : Spec.unpacks (.blk6 m f) = true := by cases m <;> rfl
    have hc : Spec.errorCodes (.blk6 m f) = [0] := by cases m <;> rfl
    exact .inr ⟨_, _, _, _, rfl, rfl, by rw [hc]; decide, .inr (.inl ⟨_, rfl, hp⟩)⟩
  | blk6Unknown sel rest =>
    rw [exec_blk6Unknown, sentinel6] at h; cases h
    exact .inr ⟨_, _, _, _, rfl, rfl, by simp [Spec.errorCodes, Spec.packs], .inr (.inl ⟨_, rfl, rfl⟩)⟩
  | blk7 m f =>
    rw [exec_blk7, live7] at h; cases h
    have hp : Spec.unpacks (.blk7 m f) = true := by cases m <;> rfl
    have hc : Spec.errorCodes (.blk7 m f) = [0] := by cases m <;> rfl
    exact .inr ⟨_, _, _, _, rfl, rfl, by rw [hc]; decide, .inr (.inl ⟨_, rfl, hp⟩)⟩
  | blk7Reserved rest =>
    rw [exec_blk7Reserved] at h; cases h
    exact .inl ⟨_, rfl, by simp [Spec.errorCodes, Spec.packs, errCode]⟩

theorem exec_next (i : Instr) (s : State) : ∃ t, exec i s = .next t := by
  induction i using instr_cases with
  | nop => exact ⟨_, rfl⟩
  | bfExtract => simp only [exec, execBfExtract]; split <;> exact ⟨_, rfl⟩
  | bfStore => simp only [exec, execBfStore]; split <;> exact ⟨_, rfl⟩
  | ptSubset => exact ⟨_, rfl⟩
  | ptIdxWidth => exact ⟨_, rfl⟩
  | ptIdxOffset => exact ⟨_, rfl⟩
  | bc6hModeOf => simp only [exec, execBc6hModeOf]; split <;> exact ⟨_, rfl⟩
  | bc7ModeOf => simp only [exec, execBc7ModeOf]; split <;> exact ⟨_, rfl⟩
  | bc6hUnpackU => exact ⟨_, rfl⟩
  | bc6hUnpackS => exact ⟨_, rfl⟩
  | bc7Unpack => exact ⟨_, rfl⟩
  | bc6hPack m => exact ⟨_, exec_bc6hPack m s⟩
  | bc7Pack m => exact ⟨_, exec_bc7Pack m s⟩
  | blk6 m f => exact ⟨_, exec_blk6 m f s⟩
  | blk6Unknown sel rest => exact ⟨_, rfl⟩
  | blk7 m f => exact ⟨_, exec_blk7 m f s⟩
  | blk7Reserved rest => exact ⟨_, rfl⟩

end Sys2Proof.Machine
end

