-- ==== Sys2Proof/Tests/Slice0.lean ====
section
/-! SUPPORT. Tests. The expected values are those of spec/95_test_vectors.md and spec/96_mode_vectors.md
(section named at each group), never the model's own answers; a command word is written out from the OP map
of R93. After the tests, one witness for every statement that has hypotheses. -/

namespace Sys2Proof.Tests
open Sys2Proof Sys2Proof.Machine

/-! ## Helpers -/

/-- An endpoint file from rows of components, zero where a row or a component is missing. -/
def eps (l : List (List Nat)) : EpFile :=
  epFile fun e c => BitVec.ofNat 16 ((l.getD e.val []).getD c.val 0)

/-- An index file. -/
def ixs (l : List Nat) : IdxFile := Vector.ofFn fun i => BitVec.ofNat 4 (l.getD i.val 0)

/-- The reset state with a block in it. -/
def withBlock (b : Block) : State := State.reset.setBlk b

/-- The reset state with the operands of a pack, over the block the pack vectors start from. -/
def packing (part pbits : Nat) (ep : List (List Nat)) (idx : List Nat) : State :=
  { State.reset with
    blkLo := 0x1111#64
    blkHi := 0x2222#64
    part := BitVec.ofNat 6 part
    pbits := BitVec.ofNat 6 pbits
    ep := eps ep
    idx := ixs idx }

/-- Something of the next state; `none` where there is none. -/
def after {α : Type} (r : Result) (f : State → α) : Option α :=
  match r with
  | .next t => some (f t)
  | .fault _ => none
  | .refused _ => none

/-- What `decode` gives, where it gives an instruction. -/
def decoded (c : Code) : Option Instr :=
  match decode refConfig c with
  | .ok i => some i
  | .error _ => none

/-! ## Well-formedness: an ill-formed term for each check, and a well-formed one beside it -/

/-- BC6H operands with one component, a partition and one index of pixel `i`. -/
def some6 (ep : List (List Nat)) (part : Nat) (idx : List Nat) : Fields6 :=
  ⟨eps ep, BitVec.ofNat 5 part, ixs idx⟩

/-- BC7 operands. -/
def some7 (ep : List (List Nat)) (part rot idxm pbits : Nat) (idx idx2 : List Nat) : Fields7 :=
  ⟨eps ep, BitVec.ofNat 6 part, BitVec.ofNat 2 rot, BitVec.ofNat 1 idxm, BitVec.ofNat 6 pbits, ixs idx,
    ixs idx2⟩

theorem test_wf6_accepts : WellFormed (.blk6M1 (some6 [[127], [63]] 31 [3, 7])) = true := by decide
theorem test_wf6_wide_endpoint : WellFormed (.blk6M1 (some6 [[128]] 0 [])) = false := by decide
theorem test_wf6_wide_delta : WellFormed (.blk6M1 (some6 [[0], [64]] 0 [])) = false := by decide
theorem test_wf6_absent_endpoint : WellFormed (.blk6M3 (some6 [[], [], [1]] 0 [])) = false := by decide
theorem test_wf6_alpha : WellFormed (.blk6M3 (some6 [[0, 0, 0, 1]] 0 [])) = false := by decide
theorem test_wf6_partition_of_one_subset : WellFormed (.blk6M3 (some6 [] 1 [])) = false := by decide
theorem test_wf6_wide_anchor_index : WellFormed (.blk6M1 (some6 [] 0 [4])) = false := by decide
theorem test_wf6_wide_index : WellFormed (.blk6M1 (some6 [] 0 [0, 8])) = false := by decide
theorem test_wf6_unknown_accepts : WellFormed (.blk6Unknown 27 5) = true := by decide
theorem test_wf6_live_selector : WellFormed (.blk6Unknown 30 5) = false := by decide

theorem test_wf7_accepts :
    WellFormed (.blk7M4 (some7 [[31, 0, 0, 63]] 0 3 1 0 [1, 3] [3, 7])) = true := by decide
theorem test_wf7_wide_component : WellFormed (.blk7M4 (some7 [[32]] 0 0 0 0 [] [])) = false := by decide
theorem test_wf7_absent_endpoint :
    WellFormed (.blk7M4 (some7 [[], [], [1]] 0 0 0 0 [] [])) = false := by decide
theorem test_wf7_absent_alpha :
    WellFormed (.blk7M0 (some7 [[0, 0, 0, 1]] 0 0 0 0 [] [])) = false := by decide
theorem test_wf7_wide_partition : WellFormed (.blk7M0 (some7 [] 16 0 0 0 [] [])) = false := by decide
theorem test_wf7_absent_rotation : WellFormed (.blk7M0 (some7 [] 0 1 0 0 [] [])) = false := by decide
theorem test_wf7_absent_index_mode : WellFormed (.blk7M5 (some7 [] 0 0 1 0 [] [])) = false := by decide
theorem test_wf7_wide_pbits : WellFormed (.blk7M1 (some7 [] 0 0 0 4 [] [])) = false := by decide
theorem test_wf7_wide_anchor_index : WellFormed (.blk7M6 (some7 [] 0 0 0 0 [8] [])) = false := by decide
theorem test_wf7_wide_second_index :
    WellFormed (.blk7M4 (some7 [] 0 0 0 0 [] [0, 8])) = false := by decide
theorem test_wf7_absent_second_array :
    WellFormed (.blk7M6 (some7 [] 0 0 0 0 [] [1])) = false := by decide

/-! ## Decoding: the words of spec/30_encoding.md R91 to R94 and of spec/95_test_vectors.md 2.14

A word is `OP + 16 * MODE + 512 * SIGNED` (R91). -/

theorem test_decode_system_bitfield_tables :
    decodeTableWord 32 0x000 = some .nop ∧
    decodeTableWord 32 0x001 = some .bfExtract ∧
    decodeTableWord 32 0x002 = some .bfStore ∧
    decodeTableWord 32 0x003 = some .ptSubset ∧
    decodeTableWord 32 0x004 = some .ptIdxWidth ∧
    decodeTableWord 32 0x005 = some .ptIdxOffset := by decide
theorem test_decode_bc6h :
    decodeTableWord 32 0x006 = some .bc6hModeOf ∧
    decodeTableWord 32 0x007 = some .bc6hUnpackU ∧
    decodeTableWord 32 0x207 = some .bc6hUnpackS := by decide
theorem test_decode_bc6h_packs :
    decodeTableWord 32 0x008 = some .bc6hPackM0 ∧
    decodeTableWord 32 0x018 = some .bc6hPackM1 ∧
    decodeTableWord 32 0x028 = some .bc6hPackM2 ∧
    decodeTableWord 32 0x038 = some .bc6hPackM3 ∧
    decodeTableWord 32 0x068 = some .bc6hPackM6 ∧
    decodeTableWord 32 0x078 = some .bc6hPackM7 ∧
    decodeTableWord 32 0x0A8 = some .bc6hPackM10 ∧
    decodeTableWord 32 0x0B8 = some .bc6hPackM11 ∧
    decodeTableWord 32 0x0E8 = some .bc6hPackM14 ∧
    decodeTableWord 32 0x0F8 = some .bc6hPackM15 ∧
    decodeTableWord 32 0x128 = some .bc6hPackM18 ∧
    decodeTableWord 32 0x168 = some .bc6hPackM22 ∧
    decodeTableWord 32 0x1A8 = some .bc6hPackM26 ∧
    decodeTableWord 32 0x1E8 = some .bc6hPackM30 := by decide
theorem test_decode_bc7 :
    decodeTableWord 32 0x009 = some .bc7ModeOf ∧
    decodeTableWord 32 0x00A = some .bc7Unpack := by decide
theorem test_decode_bc7_packs :
    decodeTableWord 32 0x00B = some .bc7PackM0 ∧
    decodeTableWord 32 0x01B = some .bc7PackM1 ∧
    decodeTableWord 32 0x02B = some .bc7PackM2 ∧
    decodeTableWord 32 0x03B = some .bc7PackM3 ∧
    decodeTableWord 32 0x04B = some .bc7PackM4 ∧
    decodeTableWord 32 0x05B = some .bc7PackM5 ∧
    decodeTableWord 32 0x06B = some .bc7PackM6 ∧
    decodeTableWord 32 0x07B = some .bc7PackM7 := by decide

/-- The illegal words of 2.14. -/
theorem test_decode_illegal : ∀ w ∈ [0xC, 0xF, 0x400, 0x80000000, 0x201, 0x208, 0x20A, 0x17, 0x10, 0x48,
    0x1F8, 0x8B, 0x1FB], decodeTableWord 32 w = none := by decide

/-- Every illegal word is rejected by the clause of R94 that it meets. -/
theorem test_decode_reasons :
    decodeCmd 0x400 = .error .reservedBits ∧ decodeCmd 0xC = .error .reservedOp ∧
    decodeCmd 0x201 = .error .signedNotZero ∧ decodeCmd 0x10 = .error .modeNotZero ∧
    decodeCmd 0x48 = .error .noSuchPacker6 ∧ decodeCmd 0x8B = .error .noSuchPacker7 := by
  refine ⟨?_, ?_, ?_, ?_, ?_, ?_⟩ <;> rfl

/-! ## Blocks: decoding the vectors of spec/96_mode_vectors.md, packing them, and their texels -/

/-- The fields of the vector of BC6H mode code 0. -/
def row6_m0 : Fields6 :=
  some6 [[481, 186, 745], [3, 28, 10], [0, 31, 15], [6, 10, 29]] 19
    [2, 5, 1, 4, 0, 5, 6, 7, 6, 1, 5, 6, 5, 3, 7, 5]

theorem test_decode_blk6_m0 :
    decoded (.block6 0xBDDD4EFA88DA7341E5579E1DD25D3C34#128) = some (.blk6M0 row6_m0) := by decide
theorem test_texels_blk6_m0 :
    after (exec (.blk6M0 row6_m0) State.reset) (fun t => (t.tex[0], t.tex[13], t.status)) =
      some (0x00005A9D16723A68#64, 0x00005AC916613A75#64, 0x00001001#32) := by decide
set_option maxRecDepth 8000 in
theorem test_pack6_m0 : after (exec .bc6hPackM0 (packing 19 0
      [[481, 186, 745], [484, 182, 755], [481, 185, 760], [487, 196, 742]]
      [2, 5, 1, 4, 0, 5, 6, 7, 6, 1, 5, 6, 5, 3, 7, 5]))
      (fun t => (t.blkHi, t.blkLo, t.status)) =
    some (0xBDDD4EFA88DA7341#64, 0xE5579E1DD25D3C34#64, 0x00001001#32) := by decide

/-- The fields of the vector of BC6H mode code 1. -/
def row6_m1 : Fields6 :=
  some6 [[106, 111, 83], [50, 59, 20], [39, 12, 21], [27, 47, 49]] 20
    [1, 2, 1, 6, 1, 2, 3, 3, 2, 4, 1, 7, 6, 3, 1, 1]

theorem test_decode_blk6_m1 :
    decoded (.block6 0x25EE626D1CA68DCEAA7F7996A637DD51#128) = some (.blk6M1 row6_m1) := by decide
theorem test_texels_blk6_m1 :
    after (exec (.blk6M1 row6_m1) State.reset) (fun t => (t.tex[0], t.tex[13], t.status)) =
      some (0x0000539D6B556543#64, 0x0000591069F86173#64, 0x00001041#32) := by decide
set_option maxRecDepth 8000 in
theorem test_pack6_m1 : after (exec .bc6hPackM1 (packing 20 0
      [[106, 111, 83], [92, 106, 103], [81, 123, 104], [5, 94, 68]]
      [1, 2, 1, 6, 1, 2, 3, 3, 2, 4, 1, 7, 6, 3, 1, 1]))
      (fun t => (t.blkHi, t.blkLo, t.status)) =
    some (0x25EE626D1CA68DCE#64, 0xAA7F7996A637DD51#64, 0x00001041#32) := by decide

/-- The fields of the vector of BC6H mode code 2. -/
def row6_m2 : Fields6 :=
  some6 [[82, 1535, 461], [17, 0, 2], [10, 11, 2], [30, 15, 6]] 23
    [0, 1, 2, 3, 4, 6, 5, 1, 2, 3, 4, 2, 2, 7, 5, 3]

theorem test_decode_blk6_m2 :
    decoded (.block6 0xEF4A346E8D12EF54517A168B9AFF8A42#128) = some (.blk6M2 row6_m2) := by decide
theorem test_texels_blk6_m2 :
    after (exec (.blk6M2 row6_m2) State.reset) (fun t => (t.tex[0], t.tex[11], t.status)) =
      some (0x00001BF15CF804FE#64, 0x00001C215CBC0565#64, 0x00001081#32) := by decide
set_option maxRecDepth 8000 in
theorem test_pack6_m2 : after (exec .bc6hPackM2 (packing 23 0
      [[82, 1535, 461], [67, 1535, 463], [92, 1530, 463], [80, 1534, 467]]
      [0, 1, 2, 3, 4, 6, 5, 1, 2, 3, 4, 2, 2, 7, 5, 3]))
      (fun t => (t.blkHi, t.blkLo, t.status)) =
    some (0xEF4A346E8D12EF54#64, 0x517A168B9AFF8A42#64, 0x00001081#32) := by decide

/-- The fields of the vector of BC6H mode code 3. -/
def row6_m3 : Fields6 :=
  some6 [[729, 476, 881], [173, 700, 712]] 0
    [6, 13, 2, 5, 14, 3, 9, 10, 1, 1, 15, 13, 2, 0, 14, 2]

theorem test_decode_blk6_m3 :
    decoded (.block6 0x2E02DF11A93E52DD6457856EE2EE5B23#128) = some (.blk6M3 row6_m3) := by decide
theorem test_texels_blk6_m3 :
    after (exec (.blk6M3 row6_m3) State.reset) (fun t => (t.tex[0], t.tex[11], t.status)) =
      some (0x0000626E44B83CFC#64, 0x0000592851031E7A#64, 0x000008C1#32) := by decide
set_option maxRecDepth 8000 in
theorem test_pack6_m3 : after (exec .bc6hPackM3 (packing 0 0
      [[729, 476, 881], [173, 700, 712]]
      [6, 13, 2, 5, 14, 3, 9, 10, 1, 1, 15, 13, 2, 0, 14, 2]))
      (fun t => (t.blkHi, t.blkLo, t.status)) =
    some (0x2E02DF11A93E52DD#64, 0x6457856EE2EE5B23#64, 0x000008C1#32) := by decide

/-- The fields of the vector of BC6H mode code 6. -/
def row6_m6 : Fields6 :=
  some6 [[897, 1441, 482], [3, 30, 10], [14, 2, 15], [6, 0, 7]] 27
    [2, 7, 1, 1, 6, 0, 2, 2, 2, 1, 4, 5, 5, 2, 4, 0]

theorem test_decode_blk6_m6 :
    decoded (.block6 0x115B0A4862FB637DF507C41BC4D0F026#128) = some (.blk6M6 row6_m6) := by decide
theorem test_texels_blk6_m6 :
    after (exec (.blk6M6 row6_m6) State.reset) (fun t => (t.tex[0], t.tex[11], t.status)) =
      some (0x00001D1C573E3664#64, 0x00001CF357303678#64, 0x00001181#32) := by decide
set_option maxRecDepth 8000 in
theorem test_pack6_m6 : after (exec .bc6hPackM6 (packing 27 0
      [[897, 1441, 482], [900, 1439, 476], [895, 1443, 481], [903, 1441, 489]]
      [2, 7, 1, 1, 6, 0, 2, 2, 2, 1, 4, 5, 5, 2, 4, 0]))
      (fun t => (t.blkHi, t.blkLo, t.status)) =
    some (0x115B0A4862FB637D#64, 0xF507C41BC4D0F026#64, 0x00001181#32) := by decide

/-- The fields of the vector of BC6H mode code 7. -/
def row6_m7 : Fields6 :=
  some6 [[1014, 447, 1824], [456, 141, 436]] 0
    [4, 13, 3, 5, 5, 12, 11, 14, 12, 0, 9, 14, 14, 10, 8, 6]

theorem test_decode_blk6_m7 :
    decoded (.block6 0x68AEE90CEBC553D9DA11AE4640DFFEC7#128) = some (.blk6M7 row6_m7) := by decide
theorem test_texels_blk6_m7 :
    after (exec (.blk6M7 row6_m7) State.reset) (fun t => (t.tex[0], t.tex[11], t.status)) =
      some (0x00006D3E1D5D3C86#64, 0x00006A2723193A3F#64, 0x000009C1#32) := by decide
set_option maxRecDepth 8000 in
theorem test_pack6_m7 : after (exec .bc6hPackM7 (packing 0 0
      [[1014, 447, 1824], [958, 588, 1748]]
      [4, 13, 3, 5, 5, 12, 11, 14, 12, 0, 9, 14, 14, 10, 8, 6]))
      (fun t => (t.blkHi, t.blkLo, t.status)) =
    some (0x68AEE90CEBC553D9#64, 0xDA11AE4640DFFEC7#64, 0x000009C1#32) := by decide

/-- The fields of the vector of BC6H mode code 10. -/
def row6_m10 : Fields6 :=
  some6 [[1917, 1518, 1475], [10, 11, 30], [9, 12, 29], [10, 13, 31]] 31
    [2, 6, 2, 1, 1, 0, 1, 4, 0, 6, 7, 4, 4, 6, 7, 4]

theorem test_decode_blk6_m10 :
    decoded (.block6 0x9F49F084136BFD73BF6F79D386F76FAA#128) = some (.blk6M10 row6_m10) := by decide
theorem test_texels_blk6_m10 :
    after (exec (.blk6M10 row6_m10) State.reset) (fun t => (t.tex[0], t.tex[11], t.status)) =
      some (0x0000594D5BDA73FF#64, 0x000059395BBB73B5#64, 0x00001281#32) := by decide
set_option maxRecDepth 8000 in
theorem test_pack6_m10 : after (exec .bc6hPackM10 (packing 31 0
      [[1917, 1518, 1475], [1911, 1513, 1473], [1910, 1514, 1472], [1911, 1515, 1474]]
      [2, 6, 2, 1, 1, 0, 1, 4, 0, 6, 7, 4, 4, 6, 7, 4]))
      (fun t => (t.blkHi, t.blkLo, t.status)) =
    some (0x9F49F084136BFD73#64, 0xBF6F79D386F76FAA#64, 0x00001281#32) := by decide

/-- The fields of the vector of BC6H mode code 11. -/
def row6_m11 : Fields6 :=
  some6 [[2586, 123, 2438], [183, 220, 33]] 0
    [0, 1, 4, 0, 2, 0, 1, 10, 13, 9, 10, 9, 11, 3, 9, 3]

theorem test_decode_blk6_m11 :
    decoded (.block6 0x393B9A9DA1020410909B8DBB0C3DC34B#128) = some (.blk6M11 row6_m11) := by decide
theorem test_texels_blk6_m11 :
    after (exec (.blk6M11 row6_m11) State.reset) (fun t => (t.tex[0], t.tex[11], t.status)) =
      some (0x000049D203BD4E4D#64, 0x00004A6A03174CFD#64, 0x00000AC1#32) := by decide
set_option maxRecDepth 8000 in
theorem test_pack6_m11 : after (exec .bc6hPackM11 (packing 0 0
      [[2586, 123, 2438], [2513, 87, 2471]]
      [0, 1, 4, 0, 2, 0, 1, 10, 13, 9, 10, 9, 11, 3, 9, 3]))
      (fun t => (t.blkHi, t.blkLo, t.status)) =
    some (0x393B9A9DA1020410#64, 0x909B8DBB0C3DC34B#64, 0x00000AC1#32) := by decide

/-- The fields of the vector of BC6H mode code 14. -/
def row6_m14 : Fields6 :=
  some6 [[330, 97, 236], [27, 14, 4], [1, 13, 12], [29, 9, 12]] 26
    [2, 5, 0, 7, 1, 1, 2, 3, 1, 6, 1, 2, 3, 5, 0, 0]

theorem test_decode_blk6_m14 :
    decoded (.block6 0x02B471689E5B5EC38249DAD9D830A94E#128) = some (.blk6M14 row6_m14) := by decide
theorem test_texels_blk6_m14 :
    after (exec (.blk6M14 row6_m14) State.reset) (fun t => (t.tex[0], t.tex[11], t.status)) =
      some (0x0000398C18914FB3#64, 0x0000398C18914FB3#64, 0x00001381#32) := by decide
set_option maxRecDepth 8000 in
theorem test_pack6_m14 : after (exec .bc6hPackM14 (packing 26 0
      [[330, 97, 236], [325, 111, 240], [331, 110, 248], [327, 106, 248]]
      [2, 5, 0, 7, 1, 1, 2, 3, 1, 6, 1, 2, 3, 5, 0, 0]))
      (fun t => (t.blkHi, t.blkLo, t.status)) =
    some (0x02B471689E5B5EC3#64, 0x8249DAD9D830A94E#64, 0x00001381#32) := by decide

/-- The fields of the vector of BC6H mode code 15. -/
def row6_m15 : Fields6 :=
  some6 [[21977, 44217, 191], [15, 5, 9]] 0
    [1, 9, 7, 8, 7, 8, 12, 0, 6, 5, 0, 8, 5, 8, 15, 14]

theorem test_decode_blk6_m15 :
    decoded (.block6 0xEF8580560C87879204EAB5797E5CBB2F#128) = some (.blk6M15 row6_m15) := by decide
theorem test_texels_blk6_m15 :
    after (exec (.blk6M15 row6_m15) State.reset) (fun t => (t.tex[0], t.tex[11], t.status)) =
      some (0x0000005C53A92995#64, 0x0000005A53AB2994#64, 0x00000BC1#32) := by decide
set_option maxRecDepth 8000 in
theorem test_pack6_m15 : after (exec .bc6hPackM15 (packing 0 0
      [[21977, 44217, 191], [21976, 44222, 184]]
      [1, 9, 7, 8, 7, 8, 12, 0, 6, 5, 0, 8, 5, 8, 15, 14]))
      (fun t => (t.blkHi, t.blkLo, t.status)) =
    some (0xEF8580560C878792#64, 0x04EAB5797E5CBB2F#64, 0x00000BC1#32) := by decide

/-- The fields of the vector of BC6H mode code 18. -/
def row6_m18 : Fields6 :=
  some6 [[240, 224, 65], [52, 30, 22], [23, 20, 24], [54, 17, 5]] 19
    [3, 7, 1, 3, 1, 2, 6, 3, 7, 3, 7, 3, 4, 2, 1, 0]

theorem test_decode_blk6_m18 :
    decoded (.block6 0x0547DF7916FE7B2F0B0FC9A083F07E12#128) = some (.blk6M18 row6_m18) := by decide
theorem test_texels_blk6_m18 :
    after (exec (.blk6M18 row6_m18) State.reset) (fun t => (t.tex[0], t.tex[11], t.status)) =
      some (0x00001DAE6C55720A#64, 0x00001E8266513133#64, 0x00001481#32) := by decide
set_option maxRecDepth 8000 in
theorem test_pack6_m18 : after (exec .bc6hPackM18 (packing 19 0
      [[240, 224, 65], [228, 222, 55], [7, 212, 57], [230, 209, 70]]
      [3, 7, 1, 3, 1, 2, 6, 3, 7, 3, 7, 3, 4, 2, 1, 0]))
      (fun t => (t.blkHi, t.blkLo, t.status)) =
    some (0x0547DF7916FE7B2F#64, 0x0B0FC9A083F07E12#64, 0x00001481#32) := by decide

/-- The fields of the vector of BC6H mode code 22. -/
def row6_m22 : Fields6 :=
  some6 [[197, 31, 30], [7, 22, 27], [22, 38, 11], [17, 2, 30]] 7
    [1, 4, 6, 4, 1, 1, 4, 4, 0, 3, 0, 7, 4, 5, 5, 1]

theorem test_decode_blk6_m22 :
    decoded (.block6 0x6D9C31213344F8ED7D92CC3C3C8F98B6#128) = some (.blk6M22 row6_m22) := by decide
theorem test_texels_blk6_m22 :
    after (exec (.blk6M22 row6_m22) State.reset) (fun t => (t.tex[0], t.tex[11], t.status)) =
      some (0x00000E6E10C16024#64, 0x00000DCE103A5866#64, 0x00001581#32) := by decide
set_option maxRecDepth 8000 in
theorem test_pack6_m22 : after (exec .bc6hPackM22 (packing 7 0
      [[197, 31, 30], [204, 53, 25], [187, 5, 41], [182, 33, 28]]
      [1, 4, 6, 4, 1, 1, 4, 4, 0, 3, 0, 7, 4, 5, 5, 1]))
      (fun t => (t.blkHi, t.blkLo, t.status)) =
    some (0x6D9C31213344F8ED#64, 0x7D92CC3C3C8F98B6#64, 0x00001581#32) := by decide

/-- The fields of the vector of BC6H mode code 26. -/
def row6_m26 : Fields6 :=
  some6 [[111, 143, 40], [30, 16, 47], [28, 8, 20], [12, 27, 63]] 18
    [3, 6, 2, 4, 2, 3, 5, 0, 1, 3, 6, 2, 2, 4, 4, 1]

theorem test_decode_blk6_m26 :
    decoded (.block6 0x32259A2B516E567897DE11F65047EDFA#128) = some (.blk6M26 row6_m26) := by decide
theorem test_texels_blk6_m26 :
    after (exec (.blk6M26 row6_m26) State.reset) (fun t => (t.tex[0], t.tex[11], t.status)) =
      some (0x00001024423D3599#64, 0x0000114D435435BC#64, 0x00001681#32) := by decide
set_option maxRecDepth 8000 in
theorem test_pack6_m26 : after (exec .bc6hPackM26 (packing 18 0
      [[111, 143, 40], [109, 127, 23], [107, 151, 60], [123, 138, 39]]
      [3, 6, 2, 4, 2, 3, 5, 0, 1, 3, 6, 2, 2, 4, 4, 1]))
      (fun t => (t.blkHi, t.blkLo, t.status)) =
    some (0x32259A2B516E5678#64, 0x97DE11F65047EDFA#64, 0x00001681#32) := by decide

/-- The fields of the vector of BC6H mode code 30. -/
def row6_m30 : Fields6 :=
  some6 [[15, 52, 49], [51, 22, 14], [26, 50, 29], [36, 19, 18]] 12
    [1, 5, 4, 0, 2, 3, 6, 5, 1, 2, 3, 4, 1, 5, 2, 1]

theorem test_decode_blk6_m30 :
    decoded (.block6 0x5531A37342559235A71AC59C633A69FE#128) = some (.blk6M30 row6_m30) := by decide
theorem test_texels_blk6_m30 :
    after (exec (.blk6M30 row6_m30) State.reset) (fun t => (t.tex[0], t.tex[11], t.status)) =
      some (0x0000565E5D8B27D7#64, 0x00002CD53F1E3E8B#64, 0x00001781#32) := by decide
set_option maxRecDepth 8000 in
theorem test_pack6_m30 : after (exec .bc6hPackM30 (packing 12 0
      [[15, 52, 49], [51, 22, 14], [26, 50, 29], [36, 19, 18]]
      [1, 5, 4, 0, 2, 3, 6, 5, 1, 2, 3, 4, 1, 5, 2, 1]))
      (fun t => (t.blkHi, t.blkLo, t.status)) =
    some (0x5531A37342559235#64, 0xA71AC59C633A69FE#64, 0x00001781#32) := by decide

/-- The fields of the vector of BC7 mode 0. -/
def row7_m0 : Fields7 :=
  some7 [[7, 7, 15, 0], [5, 9, 4, 0], [13, 5, 8, 0], [12, 0, 14, 0], [7, 14, 10, 0], [9, 8, 6, 0]]
    3 0 0 45 [0, 5, 0, 3, 2, 0, 6, 5, 7, 7, 7, 0, 6, 5, 4, 1]
    []

theorem test_decode_blk7_m0 :
    decoded (.block7 0x65C3FF7058A5AD5D09F1C0B2F2F9AAE7#128) = some (.blk7M0 row7_m0) := by decide
theorem test_texels_blk7_m0 :
    after (exec (.blk7M0 row7_m0) State.reset) (fun t => (t.tex[0], t.tex[11], t.status)) =
      some (0x00FF00FF007B007B#64, 0x00FF008C005A00DE#64, 0x00001801#32) := by decide
set_option maxRecDepth 8000 in
theorem test_pack7_m0 : after (exec .bc7PackM0 (packing 3 45
      [[7, 7, 15, 0], [5, 9, 4, 0], [13, 5, 8, 0], [12, 0, 14, 0], [7, 14, 10, 0], [9, 8, 6, 0]]
      [0, 5, 0, 3, 2, 0, 6, 5, 7, 7, 7, 0, 6, 5, 4, 1]))
      (fun t => (t.blkHi, t.blkLo, t.status)) =
    some (0x65C3FF7058A5AD5D#64, 0x09F1C0B2F2F9AAE7#64, 0x00001801#32) := by decide

/-- The fields of the vector of BC7 mode 1. -/
def row7_m1 : Fields7 :=
  some7 [[37, 17, 6, 0], [40, 42, 55, 0], [13, 19, 32, 0], [8, 52, 51, 0]]
    18 0 0 1 [2, 6, 0, 2, 4, 1, 4, 4, 0, 4, 4, 5, 2, 6, 6, 5]
    []

theorem test_decode_blk7_m1 :
    decoded (.block7 0xBB2B21218869CE0DC6D13A9120DA254A#128) = some (.blk7M1 row7_m1) := by decide
theorem test_texels_blk7_m1 :
    after (exec (.blk7M1 row7_m1) State.reset) (fun t => (t.tex[0], t.tex[11], t.status)) =
      some (0x00FF00510062009A#64, 0x00FF00A8008F00A0#64, 0x00001041#32) := by decide
set_option maxRecDepth 8000 in
theorem test_pack7_m1 : after (exec .bc7PackM1 (packing 18 1
      [[37, 17, 6, 0], [40, 42, 55, 0], [13, 19, 32, 0], [8, 52, 51, 0]]
      [2, 6, 0, 2, 4, 1, 4, 4, 0, 4, 4, 5, 2, 6, 6, 5]))
      (fun t => (t.blkHi, t.blkLo, t.status)) =
    some (0xBB2B21218869CE0D#64, 0xC6D13A9120DA254A#64, 0x00001041#32) := by decide

/-- The fields of the vector of BC7 mode 2. -/
def row7_m2 : Fields7 :=
  some7 [[3, 17, 14, 0], [5, 0, 14, 0], [8, 6, 21, 0], [18, 12, 2, 0], [12, 5, 25, 0], [30, 15, 23, 0]]
    31 0 0 0 [0, 2, 1, 3, 2, 3, 1, 1, 0, 3, 0, 3, 0, 0, 2, 1]
    []

theorem test_decode_blk7_m2 :
    decoded (.block7 0xC1997B65F22AB9CF2B0C08F9924146FC#128) = some (.blk7M2 row7_m2) := by decide
theorem test_texels_blk7_m2 :
    after (exec (.blk7M2 row7_m2) State.reset) (fun t => (t.tex[0], t.tex[11], t.status)) =
      some (0x00FF0073008C0018#64, 0x00FF001000630094#64, 0x00001881#32) := by decide
set_option maxRecDepth 8000 in
theorem test_pack7_m2 : after (exec .bc7PackM2 (packing 31 0
      [[3, 17, 14, 0], [5, 0, 14, 0], [8, 6, 21, 0], [18, 12, 2, 0], [12, 5, 25, 0], [30, 15, 23, 0]]
      [0, 2, 1, 3, 2, 3, 1, 1, 0, 3, 0, 3, 0, 0, 2, 1]))
      (fun t => (t.blkHi, t.blkLo, t.status)) =
    some (0xC1997B65F22AB9CF#64, 0x2B0C08F9924146FC#64, 0x00001881#32) := by decide

/-- The fields of the vector of BC7 mode 3. -/
def row7_m3 : Fields7 :=
  some7 [[4, 0, 124, 0], [60, 75, 112, 0], [33, 82, 34, 0], [105, 1, 21, 0]]
    37 0 0 13 [1, 1, 1, 0, 2, 2, 1, 3, 0, 1, 1, 1, 1, 2, 2, 2]
    []

theorem test_decode_blk7_m3 :
    decoded (.block7 0xA955B42F4AA2E1F00D296034A1781258#128) = some (.blk7M3 row7_m3) := by decide
theorem test_texels_blk7_m3 :
    after (exec (.blk7M3 row7_m3) State.reset) (fun t => (t.tex[0], t.tex[11], t.status)) =
      some (0x00FF00F10032002D#64, 0x00FF00F10032002D#64, 0x000010C1#32) := by decide
set_option maxRecDepth 8000 in
theorem test_pack7_m3 : after (exec .bc7PackM3 (packing 37 13
      [[4, 0, 124, 0], [60, 75, 112, 0], [33, 82, 34, 0], [105, 1, 21, 0]]
      [1, 1, 1, 0, 2, 2, 1, 3, 0, 1, 1, 1, 1, 2, 2, 2]))
      (fun t => (t.blkHi, t.blkLo, t.status)) =
    some (0xA955B42F4AA2E1F0#64, 0x0D296034A1781258#64, 0x000010C1#32) := by decide

/-- The fields of the vector of BC7 mode 4. -/
def row7_m4 : Fields7 :=
  some7 [[17, 11, 21, 34], [19, 16, 1, 39]]
    0 3 1 0 [1, 0, 3, 3, 1, 1, 3, 2, 3, 3, 2, 2, 1, 0, 2, 1]
    [2, 5, 3, 5, 7, 7, 6, 7, 3, 0, 6, 2, 3, 2, 4, 5]

theorem test_decode_blk7_m4 :
    decoded (.block7 0xB13583FBFAECC35F6BE67883582E71F0#128) = some (.blk7M4 row7_m4) := by decide
theorem test_texels_blk7_m4 :
    after (exec (.blk7M4 row7_m4) State.reset) (fun t => (t.tex[0], t.tex[11], t.status)) =
      some (0x007F009100660091#64, 0x007F009700660091#64, 0x00000901#32) := by decide
set_option maxRecDepth 8000 in
theorem test_pack7_m4 : after (exec .bc7PackM4 { packing 0 0
      [[17, 11, 21, 34], [19, 16, 1, 39]]
      [1, 0, 3, 3, 1, 1, 3, 2, 3, 3, 2, 2, 1, 0, 2, 1] with
      rot := 3, idxm := 1, idx2 := ixs [2, 5, 3, 5, 7, 7, 6, 7, 3, 0, 6, 2, 3, 2, 4, 5] })
      (fun t => (t.blkHi, t.blkLo, t.status)) =
    some (0xB13583FBFAECC35F#64, 0x6BE67883582E71F0#64, 0x00000901#32) := by decide

/-- The fields of the vector of BC7 mode 5. -/
def row7_m5 : Fields7 :=
  some7 [[20, 17, 41, 20], [117, 36, 34, 77]]
    0 2 0 0 [0, 0, 3, 2, 2, 1, 2, 0, 0, 1, 3, 3, 0, 1, 0, 1]
    [1, 2, 2, 2, 0, 2, 0, 2, 3, 0, 2, 1, 1, 2, 2, 1]

theorem test_decode_blk7_m5 :
    decoded (.block7 0x696388AA89E84D6134511294847A94A0#128) = some (.blk7M5 row7_m5) := by decide
theorem test_texels_blk7_m5 :
    after (exec (.blk7M5 row7_m5) State.reset) (fun t => (t.tex[0], t.tex[11], t.status)) =
      some (0x0022005200270028#64, 0x00480044002700EB#64, 0x00000941#32) := by decide
set_option maxRecDepth 8000 in
theorem test_pack7_m5 : after (exec .bc7PackM5 { packing 0 0
      [[20, 17, 41, 20], [117, 36, 34, 77]]
      [0, 0, 3, 2, 2, 1, 2, 0, 0, 1, 3, 3, 0, 1, 0, 1] with
      rot := 2, idxm := 0, idx2 := ixs [1, 2, 2, 2, 0, 2, 0, 2, 3, 0, 2, 1, 1, 2, 2, 1] })
      (fun t => (t.blkHi, t.blkLo, t.status)) =
    some (0x696388AA89E84D61#64, 0x34511294847A94A0#64, 0x00000941#32) := by decide

/-- The fields of the vector of BC7 mode 6. -/
def row7_m6 : Fields7 :=
  some7 [[69, 87, 94, 100], [48, 5, 1, 25]]
    0 0 0 1 [1, 14, 2, 6, 7, 11, 5, 12, 4, 10, 12, 0, 13, 15, 10, 6]
    []

theorem test_decode_blk7_m6 :
    decoded (.block7 0x6AFD0CA4C5B762E299C806F05AEC22C0#128) = some (.blk7M6 row7_m6) := by decide
theorem test_texels_blk7_m6 :
    after (exec (.blk7M6 row7_m6) State.reset) (fun t => (t.tex[0], t.tex[11], t.status)) =
      some (0x00C000B100A50088#64, 0x00C900BD00AF008B#64, 0x00000981#32) := by decide
set_option maxRecDepth 8000 in
theorem test_pack7_m6 : after (exec .bc7PackM6 (packing 0 1
      [[69, 87, 94, 100], [48, 5, 1, 25]]
      [1, 14, 2, 6, 7, 11, 5, 12, 4, 10, 12, 0, 13, 15, 10, 6]))
      (fun t => (t.blkHi, t.blkLo, t.status)) =
    some (0x6AFD0CA4C5B762E2#64, 0x99C806F05AEC22C0#64, 0x00000981#32) := by decide

/-- The fields of the vector of BC7 mode 7. -/
def row7_m7 : Fields7 :=
  some7 [[8, 2, 10, 1], [20, 8, 21, 27], [16, 0, 4, 19], [27, 2, 25, 2]]
    30 0 0 11 [1, 3, 1, 1, 1, 0, 1, 1, 0, 3, 2, 2, 3, 1, 3, 0]
    []

theorem test_decode_blk7_m7 :
    decoded (.block7 0x37AC517EC53D8724AA84040B70A21E80#128) = some (.blk7M7 row7_m7) := by decide
theorem test_texels_blk7_m7 :
    after (exec (.blk7M7 row7_m7) State.reset) (fun t => (t.tex[0], t.tex[11], t.status)) =
      some (0x0051007200240065#64, 0x009A009100350086#64, 0x000011C1#32) := by decide
set_option maxRecDepth 8000 in
theorem test_pack7_m7 : after (exec .bc7PackM7 (packing 30 11
      [[8, 2, 10, 1], [20, 8, 21, 27], [16, 0, 4, 19], [27, 2, 25, 2]]
      [1, 3, 1, 1, 1, 0, 1, 1, 0, 3, 2, 2, 3, 1, 3, 0]))
      (fun t => (t.blkHi, t.blkLo, t.status)) =
    some (0x37AC517EC53D8724#64, 0xAA84040B70A21E80#64, 0x000011C1#32) := by decide

/-! ## BitField128 and the tables (spec/95_test_vectors.md 2.3, 2.4) -/

/-- The block of the extract vectors with the operands of BF.*. -/
def bitField (index count : Nat) (value : Word64) : State :=
  { State.reset with
    blkLo := 0xFEDCBA9876543210#64
    blkHi := 0x0F1E2D3C4B5A6978#64
    bfIndex := BitVec.ofNat 8 index
    bfCount := BitVec.ofNat 7 count
    bfValue := value }

/-- `BF_VALUE` and `STATUS` after BF.EXTRACT. -/
def extracted (index count : Nat) : Option (Word64 × Word32) :=
  after (exec .bfExtract (bitField index count 0x5555#64)) fun t => (t.bfValue, t.status)

/-- The block and `STATUS` after BF.STORE. -/
def stored (index count : Nat) (value : Word64) : Option (Word64 × Word64 × Word32) :=
  after (exec .bfStore (bitField index count value)) fun t => (t.blkLo, t.blkHi, t.status)

theorem test_extract :
    extracted 0 64 = some (0xFEDCBA9876543210#64, 1#32) ∧
    extracted 60 8 = some (0x8F#64, 1#32) ∧
    extracted 63 64 = some (0x1E3C5A7896B4D2F1#64, 1#32) ∧
    extracted 127 1 = some (0#64, 1#32) := by decide

theorem test_extract_faults : ∀ x ∈ [(0, 0), (0, 65), (65, 64), (128, 1), (255, 127), (127, 2)],
    extracted x.1 x.2 = some (0x5555#64, 0x27#32) := by decide

theorem test_store :
    stored 127 1 0#64 = some (0xFEDCBA9876543210#64, 0x0F1E2D3C4B5A6978#64, 1#32) ∧
    stored 1 64 0#64 = some (0#64, 0x0F1E2D3C4B5A6978#64, 1#32) ∧
    store 0#64 0#64 60 8 0xA5#64 = some (0x5000000000000000#64, 0xA#64) ∧
    store 0#64 0#64 10 4 0xFFFF#64 = some (0x3C00#64, 0#64) := by decide

theorem test_store_faults :
    stored 100 29 0#64 = some (0xFEDCBA9876543210#64, 0x0F1E2D3C4B5A6978#64, 0x27#32) ∧
    stored 5 0 7#64 = some (0xFEDCBA9876543210#64, 0x0F1E2D3C4B5A6978#64, 0x27#32) := by decide

/-- `PTR` and `STATUS` after a query. -/
def queried (i : Instr) (part ptq : Nat) : Option (Nat × Word32) :=
  after (exec i { State.reset with part := BitVec.ofNat 6 part, ptq := BitVec.ofNat 10 ptq })
    fun t => (t.ptr.toNat, t.status)

theorem test_subset :
    queried .ptSubset 63 75 = some (0, 1#32) ∧ queried .ptSubset 17 21 = some (1, 1#32) ∧
    queried .ptSubset 31 20 = some (1, 1#32) ∧ queried .ptSubset 0 79 = some (2, 1#32) ∧
    queried .ptSubset 63 127 = some (0, 1#32) := by decide

theorem test_subset_faults :
    queried .ptSubset 0 1 = some (0, 0x2B#32) ∧ queried .ptSubset 0 6 = some (0, 0x2B#32) ∧
    queried .ptSubset 32 4 = some (0, 0x2B#32) := by decide

theorem test_idxWidth :
    queried .ptIdxWidth 0 515 = some (3, 1#32) ∧ queried .ptIdxWidth 13 508 = some (2, 1#32) ∧
    queried .ptIdxWidth 10 311 = some (1, 1#32) ∧ queried .ptIdxWidth 0 133 = some (0, 1#32) ∧
    queried .ptIdxWidth 0 5 = some (0, 0x2B#32) := by decide

theorem test_idxOffset :
    queried .ptIdxOffset 0 635 = some (59, 1#32) ∧ queried .ptIdxOffset 17 412 = some (7, 1#32) ∧
    queried .ptIdxOffset 3 511 = some (43, 1#32) ∧ queried .ptIdxOffset 0 1019 = some (104, 1#32) ∧
    queried .ptIdxOffset 0 5 = some (0, 0x2B#32) := by decide

/-! ## NOP, modes, unpacks (spec/95_test_vectors.md 2.6, 2.9, 2.10, 2.13, 2.14) -/

theorem test_nop : after (exec .nop { State.reset with status := 0x29#32 }) (·.status) = some 0x21#32 := by
  decide

theorem test_bc6hModeOf :
    after (exec .bc6hModeOf (withBlock 13#128)) (·.status) = some 0x1041#32 ∧
    after (exec .bc6hModeOf (withBlock 15#128)) (·.status) = some 0xBC1#32 := by decide

theorem test_bc7ModeOf :
    after (exec .bc7ModeOf (withBlock 0xA8#128)) (·.status) = some 0x10C1#32 ∧
    after (exec .bc7ModeOf (withBlock 0xFF00#128)) (·.status) = some 0x201#32 := by decide

theorem test_bc6hUnpackU :
    after (exec .bc6hUnpackU (withBlock 0x080200800000000F#128)) (fun t => t.tex[9]) =
      some 0x3E003E003E00#64 := by decide

/-- The block of 2.9 item 2: a delta that wraps in sixteen bits. -/
theorem test_bc6hUnpackS :
    after (exec .bc6hUnpackS (withBlock 0xFFFFFFFFFFFFFFF1F480FFCFFE007FEF#128))
      (fun t => (t.ep[4], t.tex[0], t.tex[1])) =
        some (65528#16, 0x7BFF00008000#64, 0x7BF800068007#64) := by decide

theorem test_bc6hUnpackS_infinity :
    after (exec .bc6hUnpackS (withBlock 0x080200800000000F#128)) (fun t => t.tex[0]) =
      some 0xFC00FC00FC00#64 := by decide

/-- Item 3 of 2.9: the sentinel, over registers that hold something. -/
theorem test_bc6h_unknown :
    after (exec .bc6hUnpackU { packing 9 5 [[1, 2, 3, 4]] [0, 0, 0, 7] with
        blkLo := 0xFFFFFFFFFFFFFFF3#64, blkHi := 0xFFFFFFFFFFFFFFFF#64 })
      (fun t => (t.tex[15], t.ep[0], t.part, t.pbits, t.idx[3], t.status)) =
        some (0x3C0000003C00#64, 0#16, 0#6, 0#6, 0#4, 0x7D1#32) := by decide

theorem test_decode_blk6Unknown :
    decoded (.block6 0xFFFFFFFFFFFFFFFFFFFFFFFFFFFFFFF3#128) = some (.blk6Unknown 19 (-1#123)) := by
  decide
theorem test_texels_blk6Unknown :
    after (exec (.blk6Unknown 31 7) State.reset) (fun t => (t.tex[4], t.status)) =
      some (0x3C0000003C00#64, 0x7D1#32) := by decide

/-- Item 1 of 2.13: mode 4 without rotation. -/
theorem test_bc7Unpack :
    after (exec .bc7Unpack (withBlock 0x000000000A7E0000011FF03E0F83E010#128))
      (fun t => (t.tex[0], t.tex[3])) = some (0x006C005400540054#64, 0x00B700AB00AB00AB#64) := by decide

/-- Item 6 of 2.13: a Reserved block. -/
theorem test_bc7Unpack_reserved :
    after (exec .bc7Unpack (withBlock 0xFFFFFFFFFFFFFFFFFFFFFFFFFFFFFF00#128))
      (fun t => (t.tex[0], t.part, t.status)) = some (0#64, 0#6, 0x223#32) := by decide

theorem test_decode_blk7Reserved :
    decoded (.block7 0xFFFFFFFFFFFFFFFFFFFFFFFFFFFFFF00#128) = some (.blk7Reserved (-1#120)) := by decide
theorem test_status_blk7Reserved :
    after (exec (.blk7Reserved 3) State.reset) (fun t => (t.tex[0], t.status)) =
      some (0#64, 0x223#32) := by decide

/-! ## Pack contracts (2.9 item 4, 2.13 item 7), one per clause -/

/-- The block and `STATUS` after a pack. -/
def packed (i : Instr) (s : State) : Option (Word64 × Word64 × Word32) :=
  after (exec i s) fun t => (t.blkHi, t.blkLo, t.status)

set_option maxRecDepth 8000 in
theorem test_pack6_contract :
    packed .bc6hPackM1 (packing 0 0 [[128], [128], [128], [128]] []) =
      some (0x2222#64, 0x1111#64, 0x25#32) ∧
    packed .bc6hPackM1 (packing 0 0 [[10, 10, 10], [42, 10, 10], [10, 10, 10], [10, 10, 10]] []) =
      some (0x2222#64, 0x1111#64, 0x25#32) ∧
    packed .bc6hPackM0 (packing 32 0 [] []) = some (0x2222#64, 0x1111#64, 0x25#32) ∧
    packed .bc6hPackM0 (packing 0 0 [] [4]) = some (0x2222#64, 0x1111#64, 0x25#32) ∧
    packed .bc6hPackM3 (packing 63 0 [[], [1023, 1023, 1023]] []) =
      some (1#64, 0xFFFFFFF800000003#64, 0x8C1#32) := by decide

set_option maxRecDepth 8000 in
theorem test_pack7_contract :
    packed .bc7PackM0 (packing 16 0 [] []) = some (0x2222#64, 0x1111#64, 0x25#32) ∧
    packed .bc7PackM1 (packing 0 0 [] [4]) = some (0x2222#64, 0x1111#64, 0x25#32) ∧
    packed .bc7PackM4 (packing 0 0 [[32]] []) = some (0x2222#64, 0x1111#64, 0x25#32) ∧
    packed .bc7PackM4 (packing 0 0 [[0, 0, 0, 64]] []) = some (0x2222#64, 0x1111#64, 0x25#32) ∧
    packed .bc7PackM4 { packing 0 0 [] [] with idx2 := ixs [4] } =
      some (0x2222#64, 0x1111#64, 0x25#32) := by decide

/-! ## Interpolation, expansion, rotation (2.5, 2.11, 1.6) -/

theorem test_interp :
    interp refConfig 0 255 1#4 2 = 84 ∧ interp refConfig 0 255 8#4 4 = 135 ∧
    interp refConfig (-32767) 32767 3#4 3 = -5120 ∧ interp refConfig (-1) (-1) 8#4 4 = -1 ∧
    interp refConfig (-3) (-2) 1#4 2 = -3 := by decide

theorem test_expand : expand 19 5 = 156 ∧ expand 33 6 = 134 ∧ expand 100 7 = 201 ∧ expand 201 8 = 201 := by
  decide

theorem test_rotate :
    rotate ⟨10, 20, 30, 40⟩ 1#2 = ⟨40, 20, 30, 10⟩ ∧ rotate ⟨10, 20, 30, 40⟩ 2#2 = ⟨10, 40, 30, 20⟩ ∧
    rotate ⟨10, 20, 30, 40⟩ 3#2 = ⟨10, 20, 40, 30⟩ := by decide

/-! ## The host and the step (2.14, 1.7) -/

/-- One step of the reset state with `STATUS` 0x29, the host issuing one transaction. -/
def one {α : Type} (t : HostOp) (f : State → α) : Option α :=
  after (step { State.reset with status := 0x29#32, script := [t] }) f

theorem test_illegal_command : one (.wr 2 0x400) (fun t => (t.cmd, t.status)) =
    some (0x400#32, 0x29#32) := by decide

/-- The last row of 2.14: a 33-bit value written to `CMD`. -/
theorem test_wide_command : one (.wr 2 0x100000007) (fun t => (t.cmd, t.status)) =
    some (7#32, 0x1021#32) := by decide

theorem test_write_without_effect :
    one (.wr 3 0) (·.status) = some 0x29#32 ∧ one (.wr 0x50 5) (·.tex[0]) = some 0#64 ∧
    one (.wr 0x0D 5) (fun t => (t.status, t.part)) = some (0x29#32, 0#6) := by decide

theorem test_write_keeps_the_width :
    one (.wr 4 0xFFFF) (·.part) = some 63#6 ∧ one (.wr 0x32 0x1F) (·.idx[2]) = some 15#4 ∧
    one (.wr 0x27 0x12345) (fun t => epAt t.ep 5 3) = some 0x2345#16 := by decide

theorem test_read :
    one (.rd 3) (·.readLog) = some [0x29#64] ∧ one (.rd 0x0D) (·.readLog) = some [0#64] ∧
    one (.rd 0x60) (·.readLog) = some [0#64] := by decide

/-- The wire bytes of 1.7, byte 0 first. -/
theorem test_wire_bytes :
    blockOfBytes #v[0x40, 0x32, 0x59, 0x26, 0xCB, 0x64, 0xFE, 0x7F, 0, 0, 0, 0, 0, 0, 0, 0] =
      0x7FFE64CB26593240#128 := by decide

/-- A table row placed where the next step takes its instruction runs as that instruction. -/
theorem test_withFetchWord :
    after (step (State.reset.withFetchWord 32 0x0A)) (·.status) = some 0x223#32 ∧
    after (step (State.reset.withFetchWord 8 0x03)) (·.status) = some 0x8C1#32 ∧
    after (step (State.reset.withFetchWord 8 0x80)) (·.status) = some 0x11C1#32 := by decide

/-! ## The scripts of the BC7 pack (R386): the extras follow the mode -/

/-- The numbers of the registers that the pack script of a mode writes, in order. -/
def packWrites (m : Mode7) : List Nat :=
  (scriptEncoding (pack7Operation m 1 (eps []) 0 (ixs []) 3 1 (ixs []))).map fun x => x.1.toNat

theorem test_pack7_script_writes :
    packWrites .m4 = [0x04] ++ List.range' 0x10 8 ++ [0x05] ++ List.range' 0x30 16 ++ [0x06] ++
      List.range' 0x40 16 ++ [0x07, 0x02] ∧
    packWrites .m5 = [0x04] ++ List.range' 0x10 8 ++ [0x05] ++ List.range' 0x30 16 ++ [0x06] ++
      List.range' 0x40 16 ++ [0x02] ∧
    packWrites .m1 = [0x04, 0x10, 0x11, 0x12, 0x14, 0x15, 0x16, 0x18, 0x19, 0x1A, 0x1C, 0x1D, 0x1E,
      0x05] ++ List.range' 0x30 16 ++ [0x02] := by decide

theorem test_pack6_script_writes :
    (scriptEncoding (pack6Operation .m3 (eps []) 0 (ixs []))).map (fun x => x.1.toNat) =
      [0x10, 0x11, 0x12, 0x14, 0x15, 0x16, 0x04] ++ List.range' 0x30 16 ++ [0x02] := by decide

/-! ## Witnesses: for every statement with hypotheses, a state and operands that meet them

Where a statement has several clauses, one witness for each, at a boundary of its range. -/

/-- `LDBLK` with the unpack command after it (the BC7 script of R386). -/
theorem witness_LoadBlockBytes :
    ∃ (s : State) (bs : Vector (BitVec 8) 16), s.script = ldblk bs ++ [.wr 0x02 0x00A, .rd 0x03] :=
  ⟨{ State.reset with script := ldblk (Vector.replicate 16 0xA5#8) ++ [.wr 0x02 0x00A, .rd 0x03] },
    Vector.replicate 16 0xA5#8, rfl⟩

/-- A reversed line at its two ends, an ascending line at its last bit, and a field bit that no line
gives. -/
theorem witness_Bc6hFieldsReadTheLayout :
    (⟨39, 44, .rw, 15, 10, true⟩ ∈ refLayout6 .m15 ∧
      Spec.lineBit ⟨39, 44, .rw, 15, 10, true⟩ 39 = 15 ∧
      Spec.lineBit ⟨39, 44, .rw, 15, 10, true⟩ 44 = 10) ∧
    (⟨5, 14, .rw, 9, 0, false⟩ ∈ refLayout6 .m15 ∧
      Spec.lineBit ⟨5, 14, .rw, 9, 0, false⟩ 14 = 9) ∧
    ∀ l ∈ refLayout6 .m11, ¬ (l.field = .rw ∧ l.lo ≤ 12 ∧ 12 ≤ l.hi) := by decide

theorem witness_CommandWordsAreTheOpMap :
    (0x1E8, Instr.bc6hPackM30) ∈ Spec.commandTable ∧ (0, Instr.nop) ∈ Spec.commandTable := by decide

theorem witness_DecodeOfEncode :
    WellFormed .nop = true ∧ WellFormed (.blk6M0 row6_m0) = true ∧
    WellFormed (.blk6Unknown 31 0) = true ∧ WellFormed (.blk7M4 row7_m4) = true ∧
    WellFormed (.blk7Reserved 1) = true := by decide

theorem witness_EncodeOfDecode :
    decode refConfig (.cmd 0x207#32) = .ok .bc6hUnpackS ∧
    (∃ f, decode refConfig (.block6 (-4#128)) = .ok (.blk6M0 f)) ∧
    ∃ f, decode refConfig (.block7 0x80#128) = .ok (.blk7M7 f) :=
  ⟨rfl, ⟨_, rfl⟩, ⟨_, rfl⟩⟩

/-- One operand beyond each end of the precondition, for BF.EXTRACT and BF.STORE. -/
theorem witness_BfOutOfRange :
    (bitField 5 0 0).bfCount.toNat < 1 ∧ 64 < (bitField 0 65 0).bfCount.toNat ∧
    128 < (bitField 65 64 0).bfIndex.toNat + (bitField 65 64 0).bfCount.toNat := by decide

/-- The spans at the ends: one bit at 127, 64 bits at 64, 64 bits across the middle. -/
theorem witness_BfExtractReadsTheSpan : ∀ x ∈ [(127, 1), (64, 64), (32, 64), (0, 1)],
    1 ≤ (bitField x.1 x.2 0).bfCount.toNat ∧ (bitField x.1 x.2 0).bfCount.toNat ≤ 64 ∧
    (bitField x.1 x.2 0).bfIndex.toNat + (bitField x.1 x.2 0).bfCount.toNat ≤ 128 := by decide

theorem witness_BfStoreWritesTheSpan : ∀ x ∈ [(127, 1), (64, 64), (32, 64), (0, 1)],
    1 ≤ (bitField x.1 x.2 7).bfCount.toNat ∧ (bitField x.1 x.2 7).bfCount.toNat ≤ 64 ∧
    (bitField x.1 x.2 7).bfIndex.toNat + (bitField x.1 x.2 7).bfCount.toNat ≤ 128 := by decide

/-- A span, one that ends where it begins and one that begins where it ends; and the spans at the ends. -/
theorem witness_ExtractStoreLaws :
    LegalSpan 60 8 ∧ LegalSpan 59 1 ∧ 59 + 1 ≤ 60 ∧ LegalSpan 68 60 ∧ 60 + 8 ≤ 68 ∧
    LegalSpan 127 1 ∧ LegalSpan 0 64 := by decide

/-- The reset state with a query. -/
def query (part ptq : Nat) : State :=
  { State.reset with part := BitVec.ofNat 6 part, ptq := BitVec.ofNat 10 ptq }

theorem witness_PtSubsetAnswers :
    Spec.LegalQuery false (query 63 75) ∧ Spec.LegalQuery false (query 31 20) ∧
    Spec.LegalQuery false (query 63 127) := by
  refine ⟨?_, ?_, ?_⟩ <;> (unfold Spec.LegalQuery; decide)

theorem witness_PtIdxWidthAnswers :
    Spec.LegalQuery true (query 0 133) ∧ Spec.LegalQuery true (query 13 508) ∧
    Spec.LegalQuery true (query 10 383) := by
  refine ⟨?_, ?_, ?_⟩ <;> (unfold Spec.LegalQuery; decide)

theorem witness_PtIdxOffsetAnswers :
    Spec.LegalQuery true (query 0 1019) ∧ Spec.LegalQuery true (query 17 412) ∧
    Spec.LegalQuery true (query 3 511) := by
  refine ⟨?_, ?_, ?_⟩ <;> (unfold Spec.LegalQuery; decide)

/-- Illegal queries: no subset, no 3-subset BC6H table, no BC6H row 32; and a width query without a width. -/
theorem witness_PtIllegalQuery :
    ¬ Spec.LegalQuery false (query 0 1) ∧ ¬ Spec.LegalQuery false (query 0 6) ∧
    ¬ Spec.LegalQuery false (query 32 4) ∧ ¬ Spec.LegalQuery true (query 0 5) := by
  refine ⟨?_, ?_, ?_, ?_⟩ <;> (unfold Spec.LegalQuery; decide)

/-- The blocks of all ones of 1.2 under a BC6H and a BC7 selector, at their last anchors. -/
theorem witness_AnchorIndicesHaveTopBitZero :
    (refDesc7 .m4).ib2 = some 3 ∧
    (∃ t, modeOf6 (withBlock (-31#128)).blk = some .m1 ∧
      exec .bc6hUnpackU (withBlock (-31#128)) = .next t ∧ 2 ∈ Spec.anchorPixels 2 t.part.toNat) ∧
    ∃ t, modeOf7 (withBlock (-252#128)).blk = some .m2 ∧
      exec .bc7Unpack (withBlock (-252#128)) = .next t ∧ 15 ∈ Spec.anchorPixels 3 t.part.toNat :=
  ⟨rfl, ⟨_, by decide, rfl, by decide⟩, ⟨_, by decide, rfl, by decide⟩⟩

theorem witness_InterpolationIsBetween :
    (15#4).toNat < 2 ^ 4 ∧ (7#4).toNat < 2 ^ 3 ∧ (3#4).toNat < 2 ^ 2 := by decide

theorem witness_LayoutsTileTheHeader :
    81 < (refDesc6 .m0).indexBegin ∧ 64 < (refDesc6 .m3).indexBegin ∧
    97 < (refLayout7 .m7).indexBegin := by decide

theorem witness_Bc6hModeOfReports :
    modeOf6 (withBlock 30#128).blk = some .m30 ∧ modeOf6 (withBlock 31#128).blk = none := by decide

theorem witness_Bc6hUnpackDecodesLiveBlocks :
    modeOf6 (withBlock 30#128).blk = some .m30 ∧ modeOf6 (withBlock 0#128).blk = some .m0 := by decide

theorem witness_Bc6hBlockRowsDecode :
    wf6 refConfig .m0 row6_m0 = true ∧ wf6 refConfig .m15 row6_m15 = true ∧
    wf6 refConfig .m30 row6_m30 = true ∧ (31#5).toNat ∈ [19, 23, 27, 31] := by decide

theorem witness_Bc6hUnknownGivesTheSentinel :
    ∀ n ∈ [19, 23, 27, 31], Spec.field (withBlock (BitVec.ofNat 128 n)).blk 0 5 ∈ [19, 23, 27, 31] := by
  decide

theorem witness_Bc6hLaneRanges :
    (∃ t, exec .bc6hUnpackU (withBlock 15#128) = .next t) ∧
    (∃ t, exec .bc6hUnpackS (withBlock 15#128) = .next t) ∧ (2 : Fin 4) ≠ 3 :=
  ⟨⟨_, rfl⟩, ⟨_, rfl⟩, by decide⟩

/-- Operands at the limits of their fields, from 2.9 item 4: deltas +31 and -32, the largest indices, the
largest partition. -/
def fits6 : State :=
  packing 31 0 [[10, 10, 10], [41, 41, 41], [106, 106, 106], [10, 10, 10]] [3, 7, 3, 7]

theorem packable_fits6 : Spec.Packable6 .m1 fits6 := by
  unfold Spec.Packable6; decide

theorem witness_Bc6hPackPlacesTheFields :
    Spec.Packable6 .m1 fits6 ∧ Spec.Packable6 .m3 (packing 63 0 [[], [1023, 1023, 1023]] [7, 15]) := by
  refine ⟨packable_fits6, ?_⟩
  unfold Spec.Packable6; decide

/-- One operand beyond each limit. -/
theorem witness_Bc6hPackContractFaults :
    ¬ Spec.Packable6 .m1 (packing 0 0 [[128], [128], [128], [128]] []) ∧
    ¬ Spec.Packable6 .m1 (packing 0 0 [[10], [42], [10], [10]] []) ∧
    ¬ Spec.Packable6 .m0 (packing 32 0 [] []) ∧ ¬ Spec.Packable6 .m0 (packing 0 0 [] [4]) := by
  refine ⟨?_, ?_, ?_, ?_⟩ <;> (unfold Spec.Packable6; decide)

theorem witness_Bc6hPackOfUnpack :
    ∃ t, modeOf6 (withBlock (-31#128)).blk = some .m1 ∧
      exec .bc6hUnpackS (withBlock (-31#128)) = .next t := ⟨_, by decide, rfl⟩

theorem witness_Bc6hUnpackOfPack : ∃ t, Spec.Packable6 .m1 fits6 ∧ exec (.bc6hPack .m1) fits6 = .next t :=
  ⟨_, packable_fits6, rfl⟩

theorem witness_Bc7ModeOfReports :
    modeOf7 (withBlock 0x80#128).blk = some .m7 ∧ modeOf7 (withBlock 0xFF#128).blk = some .m0 ∧
    modeOf7 (withBlock 0x100#128).blk = none := by decide

theorem witness_Bc7UnpackDecodesLiveBlocks : modeOf7 (withBlock 0x80#128).blk = some .m7 := by decide

theorem witness_Bc7BlockRowsDecode :
    wf7 refConfig .m0 row7_m0 = true ∧ wf7 refConfig .m4 row7_m4 = true ∧
    wf7 refConfig .m7 row7_m7 = true := by decide

theorem witness_Bc7ReservedFaults : Spec.field (withBlock (-256#128)).blk 0 8 = 0 := by decide

theorem witness_Bc7AlphaDefaultsTo255 :
    ∃ t, modeOf7 (withBlock 8#128).blk = some .m3 ∧ Mode7.m3 ∈ [Mode7.m0, .m1, .m2, .m3] ∧
      exec .bc7Unpack (withBlock 8#128) = .next t := ⟨_, by decide, by decide, rfl⟩

theorem witness_ExpandReplicatesTheTopBits :
    (5 ≤ 5 ∧ 5 ≤ 8 ∧ 31 < 2 ^ 5 ∧ 4 < 5 ∧ 5 ≤ 7 ∧ 7 < 8) ∧ 5 ≤ 8 ∧ 8 ≤ 8 ∧ 255 < 2 ^ 8 := by decide

/-- Mode 4 with every operand at its maximum, from 2.13 item 7. -/
def fits7 : State :=
  { packing 63 63 [[31, 31, 31, 63], [31, 31, 31, 63]] [1, 3] with rot := 3, idxm := 1, idx2 := ixs [3, 7] }

theorem packable_fits7 : Spec.Packable7 .m4 fits7 := by
  refine ⟨by decide, by decide, by decide, by decide, ?_⟩
  intro ib2 h
  cases h
  decide

theorem witness_Bc7PackPlacesTheFields : Spec.Packable7 .m4 fits7 := packable_fits7

theorem witness_Bc7PackContractFaults :
    ¬ Spec.Packable7 .m0 (packing 16 0 [] []) ∧ ¬ Spec.Packable7 .m4 (packing 0 0 [[32]] []) ∧
    ¬ Spec.Packable7 .m4 (packing 0 0 [[0, 0, 0, 64]] []) ∧ ¬ Spec.Packable7 .m6 (packing 0 0 [] [8]) ∧
    ¬ Spec.Packable7 .m4 { packing 0 0 [] [] with idx2 := ixs [4] } :=
  ⟨fun h => absurd h.1 (by decide), fun h => absurd h.2.1 (by decide),
    fun h => absurd h.2.2.1 (by decide), fun h => absurd h.2.2.2.1 (by decide),
    fun h => absurd (h.2.2.2.2 3 rfl) (by decide)⟩

theorem witness_Bc7PackOfUnpack :
    ∃ t, modeOf7 (withBlock (-16#128)).blk = some .m4 ∧ exec .bc7Unpack (withBlock (-16#128)) = .next t :=
  ⟨_, by decide, rfl⟩

theorem witness_Bc7UnpackOfPack : ∃ t, Spec.Packable7 .m4 fits7 ∧ exec (.bc7Pack .m4) fits7 = .next t :=
  ⟨_, packable_fits7, rfl⟩

theorem witness_FaultsArePrecise :
    (∃ t, exec .bc7Unpack State.reset = .next t ∧ statusErr t.status ≠ 0#3) ∧
    ∃ t, step { State.reset with script := [.wr 2 0xC] } = .next t ∧ statusErr t.status ≠ 0#3 :=
  ⟨⟨_, rfl, by decide⟩, ⟨_, rfl, by decide⟩⟩

theorem witness_FaultsByCommand : ∃ t, exec .bfStore State.reset = .next t := ⟨_, rfl⟩

theorem witness_IllegalCommandFaults :
    ∀ v ∈ [0xC, 0x400, 0x201, 0x10, 0x48, 0x8B], Spec.IllegalWord ((BitVec.ofNat 64 v).toNat % 2 ^ 32) := by
  unfold Spec.IllegalWord; decide

theorem witness_StickyRemembersFaults :
    ∃ t, step { State.reset with status := 0x29#32, script := [.wr 2 0] } = .next t ∧
      statusDone (0x29#32) = true ∧ statusSticky (0x29#32) = true := ⟨_, rfl, by decide, by decide⟩

theorem witness_CommandsWriteOnlyTheirRegisters :
    ∃ t, exec .bc7Unpack State.reset = .next t ∧ Spec.packs .bc7Unpack = false ∧
      Spec.unpacks .nop = false ∧ Instr.bc7Unpack ≠ .bfStore ∧ Instr.bc7Unpack ≠ .bfExtract ∧
      Instr.bc7Unpack ≠ .ptSubset ∧ Instr.bc7Unpack ≠ .ptIdxWidth ∧ Instr.bc7Unpack ≠ .ptIdxOffset :=
  ⟨_, rfl, by decide, by decide, by decide, by decide, by decide, by decide, by decide⟩

/-- Two states that share a block and differ elsewhere. -/
theorem witness_UnpackDependsOnlyOnTheBlock :
    (withBlock 0x80#128).blk = { withBlock 0x80#128 with part := 9 }.blk ∧
    Spec.field (withBlock 0x80#128).blk 0 8 ≠ 0 ∧
    (∃ t, exec .bc7Unpack (withBlock 0x80#128) = .next t) ∧
    ∃ t, exec .bc7Unpack { withBlock 0x80#128 with part := 9 } = .next t :=
  ⟨rfl, by decide, ⟨_, rfl⟩, ⟨_, rfl⟩⟩

theorem witness_HostReadReturnsTheRegister :
    { State.reset with script := [.rd 0x5F] }.script = .rd 0x5F#8 :: [] := rfl

theorem witness_HostWriteWritesTheRegister :
    { State.reset with script := [.wr 0x27 5] }.script = .wr 0x27#8 5 :: [] ∧ 0x27#8 ≠ 0x02#8 :=
  ⟨rfl, by decide⟩

/-- A command word, an unpack of a BC6H block and one of a BC7 block. -/
theorem witness_StepRunsTheDecodedInstruction :
    decode refConfig (.cmd ((0x1E8#64).setWidth 32)) = .ok .bc6hPackM30 ∧
    (∃ i, decode refConfig (.block6 (withBlock 30#128).blk) = .ok i) ∧
    (∃ i, decode refConfig (.block7 (withBlock 8#128).blk) = .ok i) ∧
    (0x207#64).setWidth 32 = 0x207#32 ∧ (0x10000000A#64).setWidth 32 = 0x00A#32 :=
  ⟨rfl, ⟨_, rfl⟩, ⟨_, rfl⟩, rfl, rfl⟩

theorem witness_IdleEngineDoesNothing : State.reset.script = [] := rfl

/-- The reset state, about to unpack, meets the invariant and steps. -/
theorem witness_EngineInvariantKept :
    EngineInv (State.reset.withFetchWord 32 0x207) ∧
    ∃ t, step (State.reset.withFetchWord 32 0x207) = .next t :=
  ⟨⟨⟨by decide, by decide, by decide, by decide, by decide⟩, by decide, fun i => .inr (by
    intro c
    have h : (State.reset.withFetchWord 32 0x207).tex = Vector.replicate 16 0#64 := rfl
    simp only [h, Fin.getElem_fin, Vector.getElem_replicate]
    revert c
    decide)⟩, ⟨_, rfl⟩⟩

end Sys2Proof.Tests
end

/-! PROOFS. The statements on the state (spec/10_state.md): the invariant every step keeps, `STATUS`, the
registers a command may write, what an unpack reads, and reset. -/

namespace Sys2Proof

/-! ## Bounds on the integers of R9 and on the table functions (R158 to R161) -/

/-- `sext_N(v)` is the signed value of the `n`-bit word `v` (R9). -/
theorem sext_eq_toInt (n v : Nat) : sext n v = (BitVec.ofNat n v).toInt := by
  rw [BitVec.toInt_eq_msb_cond, BitVec.msb_eq_getLsbD_last, ← BitVec.testBit_toNat,
    BitVec.toNat_ofNat, sext]

theorem residue_lt (n : Nat) (x : Int) : residue n x < 2 ^ n := by
  have hpos : (0 : Int) < (2 ^ n : Nat) := by positivity
  have hlt := Int.emod_lt_of_pos x hpos
  unfold residue
  omega

/-- A word cut from a number is at most the number. -/
theorem toNat_ofInt_le {x : Int} {k : Nat} (w : Nat) (h0 : 0 ≤ x) (hk : x ≤ k) :
    (BitVec.ofInt w x).toNat ≤ k := by
  rw [BitVec.toNat_ofInt]
  have hmod := Int.emod_nonneg x (b := (2 ^ w : Nat)) (by positivity)
  have hdiv := Int.mul_ediv_add_emod x (2 ^ w : Nat)
  have hquot : 0 ≤ ((2 ^ w : Nat) : Int) * (x / (2 ^ w : Nat)) := by positivity
  omega

theorem subsetAt_le (g : Config) (fmt : Format) (ns : Nat) (p : BitVec 6) (i : Pixel) :
    (subsetAt g fmt ns p i).val ≤ 2 := Fin.is_le _

/-- Pixel 0 is an anchor of every partition (R159). -/
theorem isAnchor_zero (g : Config) (fmt : Format) (ns : Nat) (p : BitVec 6) :
    isAnchor g fmt ns p 0 = true := by
  unfold isAnchor anchors
  split <;> simp

/-- The largest offset is that of pixel 15 under seven bits: 15 fields less the bit of anchor 0 (R161). -/
theorem offsetAt_le (g : Config) (fmt : Format) (ns : Nat) (p : BitVec 6) (nom : Nat) (hn : 1 ≤ nom)
    (hnom : nom ≤ 7) (i : Pixel) : offsetAt g fmt ns p nom i.val ≤ 104 := by
  obtain ⟨i, hi⟩ := i
  cases i with
  | zero => simp [offsetAt]
  | succ i =>
    have hsum := offsetAt_add_anchors g fmt ns p nom hn (i + 1)
    have hzero : 0 ∈ (List.range (i + 1)).filter fun j => isAnchor g fmt ns p j := by
      simp [isAnchor_zero]
    have hanchors := List.length_pos_of_mem hzero
    have hmul : nom * (i + 1) ≤ 7 * 15 := Nat.mul_le_mul hnom (by omega)
    dsimp only
    omega

/-! ## Which instructions a command word decodes to, and the fields of a BC6H block -/

theorem wellFormed_bc6hPack (m : Mode6) : WellFormed (.bc6hPack m) = true := by cases m <;> rfl

theorem wellFormed_bc7Pack (m : Mode7) : WellFormed (.bc7Pack m) = true := by cases m <;> rfl

/-- A command word decodes to a command, whose operands stand in registers: it is well formed. -/
theorem decodeCmd_wellFormed {w : Word32} {i : Instr} (h : decodeCmd w = .ok i) :
    WellFormed i = true := by
  have hplain : ∀ {op i}, plainOp op = some i → WellFormed i = true := by
    intro op i h
    unfold plainOp at h
    split at h <;> cases h <;> rfl
  simp only [decodeCmd] at h
  repeat' split at h
  all_goals cases h
  · rfl
  · rfl
  · exact wellFormed_bc6hPack _
  · exact wellFormed_bc7Pack _
  · exact hplain ‹_›

/-- The fields of every block fit their widths (R209 (b)). -/
theorem wf6_fields6 (m : Mode6) (b : Block) : wf6 refConfig m (fields6 refConfig m b) = true := by
  have hpart : (refDesc6 m).ns = 2 ∨ (fields6 refConfig m b).part = 0#5 := by
    by_cases h : (refDesc6 m).ns = 2
    · exact .inl h
    · exact .inr (fields6_part_of_one m b h)
  have hcomps : compsFit (compWidth6 (refDesc6 m)) (fields6 refConfig m b).raw = true := by
    simp only [compsFit, decide_eq_true_eq]
    intro e c
    simpa only [value6, fields6, epAt_epFile, fieldWidth6] using gather_lt m b (.comp e c)
  have hidx : (indexArray6 (refDesc6 m) ((fields6 refConfig m b).part.setWidth 6)).fits refConfig
      (fields6 refConfig m b).idx = true := IndexArray.fits_read ..
  simp only [wf6, Bool.and_eq_true, Bool.or_eq_true, beq_iff_eq]
  exact ⟨⟨hcomps, hpart⟩, hidx⟩

/-! ## The blocks that have a BC7 mode (R98, R99) -/

theorem lowestSet_eq_none {b : Block} {m n : Nat} (h : lowestSet b m n = none) :
    ∀ k, m ≤ k → k < m + n → b.getLsbD k = false := by
  induction n generalizing m with
  | zero => intro k _ _; omega
  | succ n ih =>
    simp only [lowestSet, memRead_one] at h
    split at h
    case isTrue => cases h
    case isFalse hbit =>
      intro k hmk hk
      rcases Nat.eq_or_lt_of_le hmk with rfl | hlt
      · simpa using hbit
      · exact ih h k hlt (by omega)

theorem lowestSet_lt {b : Block} {m n j : Nat} (h : lowestSet b m n = some j) : j < m + n := by
  induction n generalizing m with
  | zero => cases h
  | succ n ih =>
    simp only [lowestSet] at h
    split at h
    · cases h; omega
    · have := ih h; omega

/-- A block whose low byte is not zero has a BC7 mode (R99, R321). -/
theorem exists_modeOf7 {b : Block} (h : Spec.field b 0 8 ≠ 0) : ∃ m, modeOf7 b = some m := by
  cases hlow : lowestSet b 0 8 with
  | none =>
    refine absurd (Nat.eq_of_testBit_eq fun k => ?_) h
    rw [Spec.field, Nat.pow_zero, Nat.div_one, Nat.testBit_mod_two_pow, Nat.zero_testBit,
      BitVec.testBit_toNat]
    by_cases hk : k < 8
    · rw [lowestSet_eq_none hlow k (by omega) (by omega), Bool.and_false]
    · simp [hk]
  | some j =>
    have hj : j < 8 := by simpa using lowestSet_lt hlow
    rw [modeOf7, hlow, Option.bind_some]
    interval_cases j <;> exact ⟨_, rfl⟩

end Sys2Proof

namespace Sys2Proof.Machine

/-! ## What keeps the three parts of `EngineInv` -/

/-- Every status word the engine writes has the shape, whatever the word before it. -/
theorem statusShape_statusWord (old : Word32) {err : BitVec 3} {sent : Bool} {mode : BitVec 5}
    {ns : BitVec 2} (herr : err.toNat ≤ 5)
    (hsent : sent = true → err = 0#3 ∧ mode = modeUnknown ∧ ns = 0#2) :
    StatusShape (statusWord old err sent mode ns) := by
  refine ⟨statusReserved_statusWord .., ?_, ?_, ?_, ?_⟩
  · rwa [statusErr_statusWord]
  · rw [statusErr_statusWord, statusSticky_statusWord]
    intro h
    simp [h]
  · simpa using hsent
  · simp

namespace EngineInv

variable {s : State}

theorem complete (h : EngineInv s) (mode : BitVec 5) (ns : BitVec 2) :
    EngineInv (s.complete false mode ns) := by
  obtain ⟨-, hptr, htex⟩ := h
  exact ⟨statusShape_statusWord _ (by decide) (fun h => by cases h), hptr, htex⟩

theorem completeSentinel (h : EngineInv s) : EngineInv (s.complete true modeUnknown 0#2) := by
  obtain ⟨-, hptr, htex⟩ := h
  exact ⟨statusShape_statusWord _ (by decide) (fun _ => ⟨rfl, rfl, rfl⟩), hptr, htex⟩

theorem raise (h : EngineInv s) (e : Err) : EngineInv (s.raise e) := by
  obtain ⟨-, hptr, htex⟩ := h
  exact ⟨statusShape_statusWord _ (errCode_le e) (fun h => by cases h), hptr, htex⟩

theorem setPtr (h : EngineInv s) {v : Nat} (hv : v ≤ 104) :
    EngineInv (s.setPtr (BitVec.ofNat 8 v)) := by
  obtain ⟨hstatus, -, htex⟩ := h
  refine ⟨hstatus, ?_, htex⟩
  rw [State.setPtr_ptr, BitVec.toNat_ofNat]
  omega

theorem writeUnpacked (h : EngineInv s) {u : Unpacked} (hu : ∀ i : Pixel, LegalTexel u.tex[i]) :
    EngineInv (s.writeUnpacked u) := by
  obtain ⟨hstatus, hptr, -⟩ := h
  exact ⟨hstatus, hptr, hu⟩

/-- The invariant speaks of the three registers that the host cannot write. -/
theorem congr {t : State} (h : EngineInv s) (hstatus : t.status = s.status) (hptr : t.ptr = s.ptr)
    (htex : t.tex = s.tex) : EngineInv t := by
  unfold EngineInv
  rwa [hstatus, hptr, htex]

theorem setBlk (h : EngineInv s) (b : Block) : EngineInv (s.setBlk b) := h.congr rfl rfl rfl

theorem setBfValue (h : EngineInv s) (v : Word64) : EngineInv (s.setBfValue v) := h.congr rfl rfl rfl

/-- A query answers a value of its range, or faults. -/
theorem answerQuery (h : EngineInv s) {q : Option Nat} (hq : ∀ v, q = some v → v ≤ 104) :
    EngineInv (s.answerQuery q) := by
  cases q with
  | none => exact h.raise _
  | some v => exact (h.setPtr (hq v rfl)).complete _ _

end EngineInv

/-! ## The values a query answers (R163 to R166) -/

theorem queryNom_le (q : BitVec 10) : queryNom q ≤ 7 := by
  unfold queryNom
  omega

theorem subsetOf_le {g : Config} {fmt : Format} {ns : Nat} {p : BitVec 6} {i : Pixel} {v : Nat}
    (h : subsetOf g fmt ns p i = some v) : v ≤ 2 := by
  unfold subsetOf at h
  split at h
  · cases h; exact subsetAt_le ..
  · cases h

theorem indexBitWidth_le {g : Config} {fmt : Format} {ns : Nat} {p : BitVec 6} {nom : Nat} {i : Pixel}
    {v : Nat} (h : indexBitWidth g fmt ns p nom i = some v) : v ≤ nom := by
  unfold indexBitWidth at h
  split at h
  · cases h; exact widthAt_le ..
  · cases h

theorem indexBitOffset_le {g : Config} {fmt : Format} {ns : Nat} {p : BitVec 6} {nom : Nat} {i : Pixel}
    {v : Nat} (hnom : nom ≤ 7) (h : indexBitOffset g fmt ns p nom i = some v) : v ≤ 104 := by
  unfold indexBitOffset at h
  split at h
  case isTrue hlegal =>
    have hpos : 1 ≤ nom := by simp [legalQuery] at hlegal; omega
    cases h
    exact offsetAt_le g fmt ns p nom hpos hnom i
  case isFalse => cases h

/-! ## The interpolation stays between its endpoints -/

theorem weight_le (n : Nat) (idx : BitVec 4) : weight refConfig n idx ≤ 64 := by
  have h2 : ∀ i, refConfig.w2 i ≤ 64 := by decide
  have h3 : ∀ i, refConfig.w3 i ≤ 64 := by decide
  have h4 : ∀ i, refConfig.w4 i ≤ 64 := by decide
  unfold weight
  split
  · exact h2 _
  · exact h3 _
  · exact h4 _

/-- An interpolated value lies within any bounds of its two endpoints (R181). -/
theorem interp_mem_Icc {lo hi e0 e1 : Int} (h0 : e0 ∈ Set.Icc lo hi) (h1 : e1 ∈ Set.Icc lo hi)
    (idx : BitVec 4) (n : Nat) : interp refConfig e0 e1 idx n ∈ Set.Icc lo hi := by
  obtain ⟨hlo0, hhi0⟩ := h0
  obtain ⟨hlo1, hhi1⟩ := h1
  have hw := weight_le n idx
  unfold interp
  generalize weight refConfig n idx = w at hw
  have hw0 : (0 : Int) ≤ w := by omega
  have hw1 : (0 : Int) ≤ 64 - w := by omega
  have hlow : (64 - (w : Int)) * lo + w * lo ≤ (64 - (w : Int)) * e0 + w * e1 :=
    add_le_add (mul_le_mul_of_nonneg_left hlo0 hw1) (mul_le_mul_of_nonneg_left hlo1 hw0)
  have hhigh : (64 - (w : Int)) * e0 + w * e1 ≤ (64 - (w : Int)) * hi + w * hi :=
    add_le_add (mul_le_mul_of_nonneg_left hhi0 hw1) (mul_le_mul_of_nonneg_left hhi1 hw0)
  rw [← add_mul, sub_add_cancel] at hlow hhigh
  constructor <;> omega

/-! ## Lanes of a texel -/

@[simp] theorem lane_texel_zero (r g b a : Half) : lane (texel r g b a) 0 = r := by
  rw [lane, texel, BitVec.extractLsb'_append_eq_of_add_le (by decide)]
  exact BitVec.extractLsb'_eq_self

@[simp] theorem lane_texel_one (r g b a : Half) : lane (texel r g b a) 1 = g := by
  rw [lane, texel, BitVec.extractLsb'_append_eq_of_le (by decide),
    BitVec.extractLsb'_append_eq_of_add_le (by decide)]
  exact BitVec.extractLsb'_eq_self

@[simp] theorem lane_texel_two (r g b a : Half) : lane (texel r g b a) 2 = b := by
  rw [lane, texel, BitVec.extractLsb'_append_eq_of_le (by decide),
    BitVec.extractLsb'_append_eq_of_le (by decide),
    BitVec.extractLsb'_append_eq_of_add_le (by decide)]
  exact BitVec.extractLsb'_eq_self

@[simp] theorem lane_texel_three (r g b a : Half) : lane (texel r g b a) 3 = a := by
  rw [lane, texel, BitVec.extractLsb'_append_eq_of_le (by decide),
    BitVec.extractLsb'_append_eq_of_le (by decide), BitVec.extractLsb'_append_eq_of_le (by decide)]
  exact BitVec.extractLsb'_eq_self

theorem legalTexel_of_bcHalf {r g b : Half} (hr : BcHalf r) (hg : BcHalf g) (hb : BcHalf b) :
    LegalTexel (texel r g b 0#16) := by
  left
  simp [hr, hg, hb]

theorem legalTexel_of_bytes {r g b a : Half} (hr : r.toNat ≤ 0xFF) (hg : g.toNat ≤ 0xFF)
    (hb : b.toNat ≤ 0xFF) (ha : a.toNat ≤ 0xFF) : LegalTexel (texel r g b a) := by
  right
  simp [Fin.forall_fin_succ, hr, hg, hb, ha]

/-! ## BC6H texels: every lane is a half that R239 allows -/

/-- The values of an unquantized endpoint in a profile, and so of an interpolated one (R232, R233). -/
def UnquantizedRange : Bool → Set Int
  | false => Set.Icc 0 0xFFFF
  | true => Set.Icc (-0x8000) 0x7FFF

theorem unqUnsigned_mem {epb : Nat} {x : Int} (hepb : epb ≤ 16) (hx0 : 0 ≤ x) (hx : x < 2 ^ epb) :
    unqUnsigned epb x ∈ UnquantizedRange false := by
  have hle : (2 : Int) ^ epb ≤ 2 ^ 16 := pow_le_pow_right₀ (by decide) hepb
  have hpos : (0 : Int) < 2 ^ epb := by positivity
  unfold unqUnsigned
  generalize (2 : Int) ^ epb = P at *
  split_ifs with h15 hzero htop
  · exact ⟨hx0, by omega⟩
  · exact ⟨by decide, by decide⟩
  · exact ⟨by decide, by decide⟩
  · have hlt : (x * 2 ^ 16 + 0x8000) / P < 0x10000 := by
      rw [Int.ediv_lt_iff_lt_mul hpos]
      omega
    exact ⟨Int.ediv_nonneg (by omega) hpos.le, by omega⟩

theorem unqMagnitude_mem (epb : Nat) {x : Int} (hx0 : 0 ≤ x) :
    unqMagnitude epb x ∈ Set.Icc 0 0x7FFF := by
  have hpos : (0 : Int) < 2 ^ (epb - 1) := by positivity
  unfold unqMagnitude
  generalize (2 : Int) ^ (epb - 1) = P at *
  split_ifs with hzero htop
  · exact ⟨by decide, by decide⟩
  · exact ⟨by decide, by decide⟩
  · have hlt : (x * 2 ^ 15 + 0x4000) / P < 0x8000 := by
      rw [Int.ediv_lt_iff_lt_mul hpos]
      omega
    exact ⟨Int.ediv_nonneg (by omega) hpos.le, by omega⟩

theorem unqSigned_mem {epb : Nat} (hepb : epb ≤ 16) (v : Nat) :
    unqSigned epb (sext epb v) ∈ UnquantizedRange true := by
  unfold unqSigned
  split_ifs with h16 hneg
  · obtain rfl : epb = 16 := by omega
    rw [sext_eq_toInt]
    have hlow := BitVec.le_toInt (BitVec.ofNat 16 v)
    have hhigh := BitVec.toInt_lt (x := BitVec.ofNat 16 v)
    exact ⟨hlow, by omega⟩
  · obtain ⟨hlow, hhigh⟩ := unqMagnitude_mem epb (x := -sext epb v) (by omega)
    exact ⟨by omega, by omega⟩
  · obtain ⟨hlow, hhigh⟩ := unqMagnitude_mem epb (x := sext epb v) (by omega)
    exact ⟨by omega, hhigh⟩

/-- The last step of the pipeline gives an allowed half (R236, R239). -/
theorem bcHalf_refFinish {signed : Bool} {v : Int} (hv : v ∈ UnquantizedRange signed) :
    BcHalf (refFinish signed v) := by
  cases signed with
  | false =>
    obtain ⟨hlow, hhigh⟩ := hv
    rw [refFinish, if_neg Bool.false_ne_true]
    exact .inl (toNat_ofInt_le 16 (by omega) (by omega))
  | true =>
    obtain ⟨hlow, hhigh⟩ := hv
    rw [refFinish, if_pos rfl]
    split_ifs with hneg
    · exact .inl (toNat_ofInt_le 16 (by omega) (by omega))
    · have hmag : (BitVec.ofInt 16 (-v * 31 / 32)).toNat ≤ 0x7C00 :=
        toNat_ofInt_le 16 (by omega) (by omega)
      have hor := Nat.two_pow_add_eq_or_of_lt (i := 15) (Nat.lt_of_le_of_lt hmag (by decide)) 1
      refine .inr ?_
      rw [BitVec.toNat_or, show (0x8000#16).toNat = 2 ^ 15 * 1 from rfl, ← hor]
      omega

/-- The endpoints of a well-formed block fit `EPB` bits after delta decoding (R225, R226). -/
theorem epAt_endpoints6_lt {m : Mode6} {raw : EpFile}
    (hraw : compsFit (compWidth6 (refDesc6 m)) raw = true) (e : Fin 6) (c : Fin 4) :
    (epAt (endpoints6 (refDesc6 m) raw) e c).toNat < 2 ^ (refDesc6 m).epb := by
  have hdb : ∀ c, (refDesc6 m).transformed = false → (refDesc6 m).db c = (refDesc6 m).epb := by
    cases m <;> decide
  have hcomp := of_decide_eq_true hraw e c
  rw [endpoints6, epAt_epFile, endpoint6]
  split_ifs with habsent hstored
  · exact Nat.two_pow_pos _
  · rw [compWidth6, if_neg habsent] at hcomp
    rcases hstored with he | htransformed
    · rwa [if_pos he] at hcomp
    · rwa [hdb c htransformed, ite_self] at hcomp
  · rw [BitVec.toNat_ofNat]
    exact Nat.lt_of_le_of_lt (Nat.mod_le _ _) (residue_lt _ _)

theorem unquantized6_mem {m : Mode6} {ep : EpFile}
    (hep : ∀ e c, (epAt ep e c).toNat < 2 ^ (refDesc6 m).epb) (signed : Bool) (e : Fin 6) (c : Fin 4) :
    unquantized6 refConfig signed (refDesc6 m) ep e c ∈ UnquantizedRange signed := by
  have hepb : (refDesc6 m).epb ≤ 16 := by
    obtain ⟨-, -, -, -, hepb, -⟩ := desc6_bounds m
    exact hepb
  cases signed with
  | false =>
    have hlt : ((epAt ep e c).toNat : Int) < 2 ^ (refDesc6 m).epb := by exact_mod_cast hep e c
    exact unqUnsigned_mem hepb (Int.natCast_nonneg _) hlt
  | true => exact unqSigned_mem hepb _

theorem bcHalf_lane6 {m : Mode6} {ep : EpFile}
    (hep : ∀ e c, (epAt ep e c).toNat < 2 ^ (refDesc6 m).epb) (signed : Bool) (part : BitVec 6)
    (idx : IdxFile) (i : Pixel) (c : Fin 4) :
    BcHalf (lane6 refConfig signed (refDesc6 m) ep part idx i c) := by
  apply bcHalf_refFinish
  have hmem := unquantized6_mem hep signed
  cases signed <;> exact interp_mem_Icc (hmem _ c) (hmem _ c) _ _

theorem legalTexel_unpacked6 {m : Mode6} {f : Fields6} (hf : wf6 refConfig m f = true) (signed : Bool)
    (i : Pixel) : LegalTexel (unpacked6 refConfig m signed f).tex[i] := by
  obtain ⟨⟨hraw, -⟩, -⟩ : (_ ∧ _) ∧ _ := by simpa only [wf6, Bool.and_eq_true] using hf
  have hlane := bcHalf_lane6 (epAt_endpoints6_lt hraw) signed (f.part.setWidth 6) f.idx i
  have htex : (unpacked6 refConfig m signed f).tex[i] = texel6 refConfig signed (refDesc6 m)
      (endpoints6 (refDesc6 m) f.raw) (f.part.setWidth 6) f.idx i := Vector.getElem_ofFn ..
  rw [htex]
  exact legalTexel_of_bcHalf (hlane 0) (hlane 1) (hlane 2)

/-- Magenta and black lanes are halves too (R238). -/
theorem legalTexel_sentinelUnpacked (i : Pixel) : LegalTexel (sentinelUnpacked refConfig).tex[i] := by
  have htex : (sentinelUnpacked refConfig).tex[i] = texel 0x3C00#16 0x0000#16 0x3C00#16 0#16 :=
    Vector.getElem_replicate ..
  rw [htex]
  exact legalTexel_of_bcHalf (.inl (by decide)) (.inl (by decide)) (.inl (by decide))

/-! ## BC7 texels: every lane is a byte -/

theorem full7_mem (d : Desc7) (f : Fields7) (e : Fin 6) (c : Fin 4) :
    (full7 d f e c : Int) ∈ Set.Icc (0 : Int) 0xFF := by
  have h : full7 d f e c ≤ 0xFF := by
    unfold full7
    split
    · decide
    · exact Nat.le_of_lt_succ (Nat.mod_lt _ (by decide))
  exact ⟨by omega, by omega⟩

theorem channel7_le (d : Desc7) (f : Fields7) (i : Pixel) (c : Fin 4) :
    (channel7 refConfig d f i c).toNat ≤ 0xFF := by
  have hmem := fun e => full7_mem d f e c
  obtain ⟨hlow, hhigh⟩ := interp_mem_Icc (hmem (firstEndpoint (subsetAt refConfig .bc7 d.ns f.part i)))
    (hmem (secondEndpoint (subsetAt refConfig .bc7 d.ns f.part i)))
    (if c = 3 then (indexRoles d f i).alpha else (indexRoles d f i).colour)
    (if c = 3 then (indexRoles d f i).alphaBits else (indexRoles d f i).colourBits)
  exact toNat_ofInt_le 16 hlow hhigh

/-- A rotation only permutes the lanes (R330). -/
theorem legalTexel_rotate {p : Rgba} (rot : BitVec 2) (hr : p.r.toNat ≤ 0xFF) (hg : p.g.toNat ≤ 0xFF)
    (hb : p.b.toNat ≤ 0xFF) (ha : p.a.toNat ≤ 0xFF) :
    LegalTexel (texel (rotate p rot).r (rotate p rot).g (rotate p rot).b (rotate p rot).a) := by
  unfold rotate
  split
  · exact legalTexel_of_bytes ha hg hb hr
  · exact legalTexel_of_bytes hr ha hb hg
  · exact legalTexel_of_bytes hr hg ha hb
  · exact legalTexel_of_bytes hr hg hb ha

theorem legalTexel_unpacked7 (m : Mode7) (f : Fields7) (i : Pixel) :
    LegalTexel (unpacked7 refConfig m f).tex[i] := by
  have hc := channel7_le (refDesc7 m) f i
  have htex : (unpacked7 refConfig m f).tex[i] = texel7 refConfig (refDesc7 m) f i :=
    Vector.getElem_ofFn ..
  rw [htex]
  exact legalTexel_rotate f.rot (hc 0) (hc 1) (hc 2) (hc 3)

/-! ## Every well-formed instruction keeps the invariant (R209, R239, R449)

A block row with operands that fit no block can break it (log entry 4), so the hypothesis is needed; a command
is always well formed. -/

namespace EngineInv

variable {s : State} (h : EngineInv s)
include h

theorem live6 {m : Mode6} {f : Fields6} (hf : wf6 refConfig m f = true) (signed : Bool) :
    EngineInv (Machine.live6 refConfig m signed f s) :=
  (h.writeUnpacked (legalTexel_unpacked6 hf signed)).complete _ _

theorem sentinel6 : EngineInv (Machine.sentinel6 refConfig s) :=
  (h.writeUnpacked legalTexel_sentinelUnpacked).completeSentinel

theorem live7 (m : Mode7) (f : Fields7) : EngineInv (Machine.live7 refConfig m f s) :=
  (h.writeUnpacked (legalTexel_unpacked7 m f)).complete _ _

theorem unpack6 (signed : Bool) : EngineInv (Machine.unpack6 refConfig signed s) := by
  unfold Machine.unpack6
  split
  · exact h.live6 (wf6_fields6 ..) signed
  · exact h.sentinel6

theorem unpack7 : EngineInv (Machine.unpack7 refConfig s) := by
  unfold Machine.unpack7
  split
  · exact h.live7 ..
  · exact h.raise _

theorem pack6 (m : Mode6) : EngineInv (Machine.pack6 refConfig m s) := by
  unfold Machine.pack6
  split
  · exact (h.setBlk _).complete _ _
  · exact h.raise _

theorem pack7 (m : Mode7) : EngineInv (Machine.pack7 refConfig m s) := by
  unfold Machine.pack7
  split
  · exact (h.setBlk _).complete _ _
  · exact h.raise _

end EngineInv

theorem exec_keeps_engineInv {i : Instr} {s t : State} (hwf : WellFormed i = true) (h : EngineInv s)
    (ht : exec i s = .next t) : EngineInv t := by
  have hnom := queryNom_le s.ptq
  induction i using instr_cases with
  | nop => cases ht; exact h.complete _ _
  | bfExtract =>
    simp only [exec, execBfExtract] at ht
    split at ht <;> cases ht
    · exact (h.setBfValue _).complete _ _
    · exact h.raise _
  | bfStore =>
    simp only [exec, execBfStore] at ht
    split at ht <;> cases ht
    · exact (h.setBlk _).complete _ _
    · exact h.raise _
  | ptSubset => cases ht; exact h.answerQuery fun v hv => (subsetOf_le hv).trans (by decide)
  | ptIdxWidth => cases ht; exact h.answerQuery fun v hv => (indexBitWidth_le hv).trans (by omega)
  | ptIdxOffset => cases ht; exact h.answerQuery fun v hv => indexBitOffset_le hnom hv
  | bc6hModeOf =>
    simp only [exec, execBc6hModeOf] at ht
    split at ht <;> cases ht <;> exact h.complete _ _
  | bc7ModeOf =>
    simp only [exec, execBc7ModeOf] at ht
    split at ht <;> cases ht <;> exact h.complete _ _
  | bc6hUnpackU => cases ht; exact h.unpack6 _
  | bc6hUnpackS => cases ht; exact h.unpack6 _
  | bc7Unpack => cases ht; exact h.unpack7
  | bc6hPack m => rw [exec_bc6hPack] at ht; cases ht; exact h.pack6 m
  | bc7Pack m => rw [exec_bc7Pack] at ht; cases ht; exact h.pack7 m
  | blk6 m f =>
    rw [exec_blk6] at ht
    cases ht
    have hf : wf6 refConfig m f = true := by cases m <;> exact hwf
    exact h.live6 hf _
  | blk6Unknown sel rest => cases ht; exact h.sentinel6
  | blk7 m f => rw [exec_blk7] at ht; cases ht; exact h.live7 m f
  | blk7Reserved rest => cases ht; exact h.raise _

/-! ## What a step can do -/

/-- The registers that the host may not write (R20, R38) are equal. -/
def SameReadOnly (s t : State) : Prop := t.status = s.status ∧ t.ptr = s.ptr ∧ t.tex = s.tex

theorem sameReadOnly_writeReg (s : State) (v : Word64) (r : Reg) : SameReadOnly s (writeReg s v r) := by
  cases r <;> exact ⟨rfl, rfl, rfl⟩

theorem sameReadOnly_hostWrite (s : State) (n : BitVec 8) (v : Word64) :
    SameReadOnly s (hostWrite s n v) := by
  unfold hostWrite
  split
  · exact sameReadOnly_writeReg ..
  · exact ⟨rfl, rfl, rfl⟩

/-- A step lets the host do what leaves the read-only registers alone; then it ends, or it runs the one
command that the word in `CMD` decodes to, or raises IllegalCommand (R380, R382, R385, R442). -/
theorem step_cases {s t : State} (h : step s = .next t) : ∃ s₀, SameReadOnly s s₀ ∧
    (t = s₀ ∨ t = s₀.raise .illegalCommand ∨
      ∃ w i, decodeCmd w = .ok i ∧ exec i s₀ = .next t) := by
  cases hscript : s.script with
  | nil =>
    rw [step_nil s hscript] at h
    cases h
    exact ⟨s, ⟨rfl, rfl, rfl⟩, .inl rfl⟩
  | cons op rest =>
    rw [step_cons s op rest hscript] at h
    cases op with
    | rd n => cases h; exact ⟨(s.setScript rest).pushRead _, ⟨rfl, rfl, rfl⟩, .inl rfl⟩
    | wr n v =>
      simp only [transact, runCommand] at h
      split_ifs at h
      · refine ⟨(s.setScript rest).setCmd (v.setWidth 32), ⟨rfl, rfl, rfl⟩, .inr ?_⟩
        split at h
        · exact .inr ⟨_, _, ‹_›, h⟩
        · cases h; exact .inl rfl
      · cases h; exact ⟨_, sameReadOnly_hostWrite (s.setScript rest) n v, .inl rfl⟩

/-- Settles O56: the invariant passes to the state in which the command of the step, if there is one,
starts, and every command keeps it. -/
theorem engineInvariantKept : Obligations.EngineInvariantKept := by
  intro s t h hstep
  obtain ⟨s₀, ⟨hstatus, hptr, htex⟩, hcases⟩ := step_cases hstep
  have h₀ : EngineInv s₀ := h.congr hstatus hptr htex
  rcases hcases with rfl | rfl | ⟨w, i, hdecode, hexec⟩
  · exact h₀
  · exact h₀.raise _
  · exact exec_keeps_engineInv (decodeCmd_wellFormed hdecode) h₀ hexec

/-! ## DONE and STICKY (O2, O48) -/

/-- The two spellings of "a fault is reported", of `statusWord` and of the statements, are one. -/
theorem bne_eq_decide_ne (err : BitVec 3) : (err != 0#3) = decide (err ≠ 0#3) := by
  rw [decide_not]
  rfl

/-- Settles O2, field by field. -/
theorem statusWordFields : Obligations.StatusWordFields := by
  intro old err sent mode ns
  refine ⟨statusDone_statusWord .., statusErr_statusWord .., statusSent_statusWord ..,
    statusMode_statusWord .., statusNs_statusWord .., ?_, statusReserved_statusWord ..⟩
  rw [statusSticky_statusWord, bne_eq_decide_ne]

theorem exec_status {i : Instr} {s t : State} (h : exec i s = .next t) :
    ∃ err sent mode ns, t.status = statusWord s.status err sent mode ns := by
  rcases exec_shape i s t h with ⟨e, rfl, -⟩ | ⟨s', sent, mode, ns, rfl, hstatus, -, -⟩
  · exact ⟨_, _, _, _, State.raise_status ..⟩
  · exact ⟨_, _, _, _, by rw [State.complete_status, hstatus]⟩

/-- A step leaves `STATUS` as it is, or writes one status word over it. -/
theorem step_status {s t : State} (h : step s = .next t) :
    t.status = s.status ∨ ∃ err sent mode ns, t.status = statusWord s.status err sent mode ns := by
  obtain ⟨s₀, ⟨hstatus, -, -⟩, rfl | rfl | ⟨w, i, -, hexec⟩⟩ := step_cases h
  · exact .inl hstatus
  · exact .inr ⟨_, _, _, _, by rw [State.raise_status, hstatus]⟩
  · exact .inr (hstatus ▸ exec_status hexec)

/-- Settles O48: every word written over `STATUS` is a `statusWord` of the old one. -/
theorem stickyRemembersFaults : Obligations.StickyRemembersFaults := by
  refine ⟨fun i s t h => ?_, fun s t h => ?_⟩
  · obtain ⟨err, sent, mode, ns, hstatus⟩ := exec_status h
    rw [hstatus, statusErr_statusWord, statusSticky_statusWord, bne_eq_decide_ne]
    exact ⟨statusDone_statusWord .., rfl⟩
  · rcases step_status h with hstatus | ⟨err, sent, mode, ns, hstatus⟩
    · rw [hstatus]
      exact ⟨id, id⟩
    · rw [hstatus, statusDone_statusWord, statusSticky_statusWord]
      exact ⟨fun _ => rfl, fun hsticky => by rw [hsticky, Bool.true_or]⟩

/-! ## What a command leaves unchanged, and what an unpack reads (O49, O50) -/

/-- Settles O49, by what `exec_shape` says an instruction writes: a fault writes `STATUS` alone, and beside
it a completing instruction writes nothing, the unpacked registers, the block, `BF_VALUE` or `PTR`, each by
the commands named. -/
theorem commandsWriteOnlyTheirRegisters : Obligations.CommandsWriteOnlyTheirRegisters := by
  intro i s t h
  rcases exec_shape i s t h with ⟨e, rfl, -⟩ | ⟨s', sent, mode, ns, rfl, -, -, hwrites⟩
  · simp
  · rcases hwrites with rfl | ⟨u, rfl, hi⟩ | ⟨b, rfl, hi⟩ | ⟨v, rfl, hi⟩ | ⟨v, rfl, hi⟩
    · simp
    · simp [hi]
    · rcases hi with hi | hi <;> simp [hi]
    · simp [hi]
    · rcases hi with hi | hi | hi <;> simp [hi]

/-- A BC6H unpack writes what the block alone fixes. -/
theorem unpack6_of_block (signed : Bool) (b : Block) : ∃ u sent mode ns, ∀ s : State, s.blk = b →
    unpack6 refConfig signed s = (s.writeUnpacked u).complete sent mode ns := by
  cases hmode : modeOf6 b with
  | some m =>
    exact ⟨unpacked6 refConfig m signed (fields6 refConfig m b), false,
      BitVec.ofNat 5 (refConfig.desc6 m).code, nsField (refConfig.desc6 m).ns, fun s hs => by
      simp only [unpack6, hs, hmode, live6]⟩
  | none =>
    exact ⟨sentinelUnpacked refConfig, true, modeUnknown, 0#2, fun s hs => by
      simp only [unpack6, hs, hmode, sentinel6]⟩

/-- A BC7 unpack of a block that is not Reserved writes what the block alone fixes. -/
theorem unpack7_of_block {b : Block} (hb : Spec.field b 0 8 ≠ 0) :
    ∃ u sent mode ns, ∀ s : State, s.blk = b →
      unpack7 refConfig s = (s.writeUnpacked u).complete sent mode ns := by
  obtain ⟨m, hmode⟩ := exists_modeOf7 hb
  exact ⟨unpacked7 refConfig m (fields7 refConfig m b), false,
    BitVec.ofNat 5 (refConfig.desc7 m).number, nsField (refConfig.desc7 m).ns, fun s hs => by
    simp only [unpack7, hs, hmode, live7]⟩

theorem exec_unpack_of_block {i : Instr} {b : Block}
    (hi : i = .bc6hUnpackU ∨ i = .bc6hUnpackS ∨ (i = .bc7Unpack ∧ Spec.field b 0 8 ≠ 0)) :
    ∃ u sent mode ns, ∀ s : State, s.blk = b →
      exec i s = .next ((s.writeUnpacked u).complete sent mode ns) := by
  rcases hi with rfl | rfl | ⟨rfl, hb⟩
  · obtain ⟨u, sent, mode, ns, h⟩ := unpack6_of_block false b
    exact ⟨u, sent, mode, ns, fun s hs => by rw [exec_bc6hUnpackU, h s hs]⟩
  · obtain ⟨u, sent, mode, ns, h⟩ := unpack6_of_block true b
    exact ⟨u, sent, mode, ns, fun s hs => by rw [exec_bc6hUnpackS, h s hs]⟩
  · obtain ⟨u, sent, mode, ns, h⟩ := unpack7_of_block hb
    exact ⟨u, sent, mode, ns, fun s hs => by rw [exec_bc7Unpack, h s hs]⟩

/-- Settles O50: both states write the values that their common block fixes. -/
theorem unpackDependsOnlyOnTheBlock : Obligations.UnpackDependsOnlyOnTheBlock := by
  intro i s s' t t' hi hblk ht ht'
  obtain ⟨u, sent, mode, ns, h⟩ := exec_unpack_of_block hi
  rw [h s rfl] at ht
  rw [h s' hblk.symm] at ht'
  cases ht
  cases ht'
  simp

/-! ## The reset state (O1, O57) -/

theorem toNat_getD_replicate_zero (w n k : Nat) :
    ((Vector.replicate n (0#w)).toList.getD k 0#w).toNat = 0 := by
  rw [Vector.toList_replicate, List.getD_eq_getElem?_getD, List.getElem?_getD_replicate_default_eq,
    BitVec.toNat_zero]

/-- Settles O1, by the register's number: one case for each number 0x00 to 0x0C, then the four register
files. -/
theorem resetRegistersZero : Obligations.ResetRegistersZero := by
  intro n
  unfold Spec.registerValue
  split
  case h_14 =>
    split_ifs
    · exact toNat_getD_replicate_zero 16 24 _
    · exact toNat_getD_replicate_zero 4 16 _
    · exact toNat_getD_replicate_zero 4 16 _
    · exact toNat_getD_replicate_zero 64 16 _
    · rfl
  all_goals rfl

/-- Settles O57: all bits of `STATUS`, `PTR` and `TEX` are zero. -/
theorem engineInvariantAtReset : Obligations.EngineInvariantAtReset := by
  refine ⟨⟨by decide, by decide, by decide, by decide, by decide⟩, by decide, fun i => .inr fun c => ?_⟩
  have htex : State.reset.tex[i] = 0#64 := Vector.getElem_replicate ..
  rw [htex, lane, BitVec.extractLsb'_zero]
  decide

end Sys2Proof.Machine

/-! PROOFS. The block as wire bytes (spec/20_memory.md R62) and the script LDBLK that loads it
(spec/30_encoding.md R106). -/

namespace Sys2Proof

/-! ## The block of sixteen wire bytes -/

/-- A bit of a block built by ORing parts is set when one part sets it. -/
theorem getLsbD_foldl_or {w : Nat} {α : Type} (f : α → BitVec w) (l : List α) (b : BitVec w) (i : Nat) :
    (l.foldl (fun b k => b ||| f k) b).getLsbD i = (b.getLsbD i || l.any fun k => (f k).getLsbD i) := by
  induction l generalizing b with
  | nil => simp
  | cons k l ih => rw [List.foldl_cons, ih, BitVec.getLsbD_or, List.any_cons, Bool.or_assoc]

/-- Bit `8k + i` of the block comes from byte `k` alone: the other bytes are shifted off it. -/
theorem getLsbD_blockOfBytes (bs : Vector (BitVec 8) 16) (k : Fin 16) {i : Nat} (hi : i < 8) :
    (blockOfBytes bs).getLsbD (8 * k.val + i) = bs[k].getLsbD i := by
  rw [blockOfBytes, getLsbD_foldl_or, BitVec.getLsbD_zero, Bool.false_or, Bool.eq_iff_iff,
    List.any_eq_true]
  constructor
  · rintro ⟨j, -, hj⟩
    simp only [BitVec.getLsbD_shiftLeft, BitVec.getLsbD_setWidth, Bool.and_eq_true, Bool.not_eq_true',
      decide_eq_true_eq, decide_eq_false_iff_not] at hj
    obtain ⟨⟨-, hle⟩, -, hbit⟩ := hj
    have hlt := BitVec.lt_of_getLsbD hbit
    obtain rfl : j = k := Fin.ext (by omega)
    rwa [Nat.add_sub_cancel_left] at hbit
  · intro hbit
    refine ⟨k, List.mem_finRange k, ?_⟩
    have hk := k.isLt
    simp only [BitVec.getLsbD_shiftLeft, BitVec.getLsbD_setWidth, Nat.add_sub_cancel_left, hbit,
      Bool.and_eq_true, Bool.not_eq_true', decide_eq_true_eq, decide_eq_false_iff_not, and_true]
    omega

@[simp] theorem blockByte_blockOfBytes (bs : Vector (BitVec 8) 16) (k : Fin 16) :
    blockByte (blockOfBytes bs) k = bs[k] := by
  apply BitVec.eq_of_getLsbD_eq
  intro i hi
  rw [blockByte, BitVec.getLsbD_extractLsb', getLsbD_blockOfBytes bs k hi, decide_eq_true hi,
    Bool.true_and]

theorem toNat_blockByte (b : Block) (k : Fin 16) :
    (blockByte b k).toNat = b.toNat / 2 ^ (8 * k.val) % 256 := by
  rw [blockByte, BitVec.extractLsb'_toNat, Nat.shiftRight_eq_div_pow]

end Sys2Proof

namespace Sys2Proof.Machine

/-! ## Writes by register name (R20, R105, R380) -/

@[simp] theorem regOfNumber_regNumber (r : Reg) : regOfNumber (BitVec.ofNat 8 (regNumber r)) = some r := by
  cases r with
  | ep e c => decide +revert
  | idx i => decide +revert
  | idx2 i => decide +revert
  | tex i => decide +revert
  | _ => rfl

/-- A write of a register other than `CMD` by its name is that register's write. -/
theorem step_wr_reg {s : State} {r : Reg} {v : Nat} {rest : List HostOp}
    (h : s.script = wr r v :: rest) (hr : r ≠ .cmd) :
    step s = .next (writeReg (s.setScript rest) (BitVec.ofNat 64 v) r) := by
  rw [step_wr s _ _ rest h (by simpa using hr), hostWrite, regOfNumber_regNumber]

/-! ## LDBLK (O3) -/

/-- The two writes of LDBLK put the block of its bytes in `BLK`. -/
theorem steps_ldblk {s : State} {bs : Vector (BitVec 8) 16} {rest : List HostOp}
    (h : s.script = ldblk bs ++ rest) :
    ∃ t, step s = .next t ∧ step t = .next ((s.setScript rest).setBlk (blockOfBytes bs)) := by
  refine ⟨_, step_wr_reg h (by decide), ?_⟩
  rw [step_wr_reg (r := .blkHi) (rest := rest) rfl (by decide), BitVec.ofNat_toNat,
    BitVec.ofNat_toNat, BitVec.setWidth_eq, BitVec.setWidth_eq]
  rfl

/-- Settles O3: the two steps store the block of the bytes and nothing else, and byte `k` of that block is
the byte given. -/
theorem loadBlockBytes : Obligations.LoadBlockBytes := by
  intro s bs rest hscript
  obtain ⟨t, hst, htu⟩ := steps_ldblk hscript
  refine ⟨t, _, hst, htu, rfl, fun k => ?_⟩
  rw [State.setBlk_blk, ← toNat_blockByte, blockByte_blockOfBytes]

end Sys2Proof.Machine

/-! PROOFS. Encodings (spec/30_encoding.md): which words are commands and which are rejected (R91 to R94),
and what the fields and the indices of a block are (R101 to R103). -/

namespace Sys2Proof

/-! ## The fields of a command word, as the numbers of R91 -/

theorem toNat_extractLsb'_eq_bits (w : Word32) (hi lo : Nat) :
    (w.extractLsb' lo (hi + 1 - lo)).toNat = Spec.bits w.toNat hi lo := by
  rw [BitVec.extractLsb'_toNat, Nat.shiftRight_eq_div_pow, Spec.bits]

theorem bits_op (w : Word32) : Spec.bits w.toNat 3 0 = opField w :=
  (toNat_extractLsb'_eq_bits w 3 0).symm

theorem bits_mode (w : Word32) : Spec.bits w.toNat 8 4 = modeField w :=
  (toNat_extractLsb'_eq_bits w 8 4).symm

theorem bits_signed (w : Word32) : Spec.bits w.toNat 9 9 = (signedField w).toNat := by
  rw [signedField, ← BitVec.testBit_toNat, Nat.toNat_testBit, Spec.bits]
  rfl

theorem bits_reserved (w : Word32) : Spec.bits w.toNat 31 10 = (w.extractLsb' 10 22).toNat :=
  (toNat_extractLsb'_eq_bits w 31 10).symm

theorem opField_lt (w : Word32) : opField w < 16 := BitVec.isLt _

theorem modeField_lt (w : Word32) : modeField w < 32 := BitVec.isLt _

/-- A word whose reserved bits are zero is the sum of its three fields (R91). -/
theorem toNat_eq_sum_fields {w : Word32} (h : w.extractLsb' 10 22 = 0#22) :
    w.toNat = opField w + 16 * modeField w + 512 * (signedField w).toNat := by
  have hreserved : Spec.bits w.toNat 31 10 = 0 := by rw [bits_reserved, h]; rfl
  rw [← bits_op, ← bits_mode, ← bits_signed]
  simp only [Spec.bits] at hreserved ⊢
  omega

/-! ## The modes that a pack command may name (R92, R190, R290) -/

theorem mode6OfCode_eq_some_iff {k : Nat} {m : Mode6} :
    mode6OfCode k = some m ↔ k = (refDesc6 m).code := by
  constructor
  · intro h
    unfold mode6OfCode at h
    split at h <;> cases h <;> rfl
  · rintro rfl
    cases m <;> rfl

theorem mode7OfNumber_eq_some_iff {k : Nat} {m : Mode7} :
    mode7OfNumber k = some m ↔ k = (refDesc7 m).number := by
  constructor
  · intro h
    unfold mode7OfNumber at h
    split at h <;> cases h <;> rfl
  · rintro rfl
    cases m <;> rfl

/-- The MODE values that are no BC6H code, as R94 lists them. -/
theorem mode6OfCode_eq_none_iff {k : Nat} (hk : k < 32) : mode6OfCode k = none ↔
    k ∈ [4, 5, 8, 9, 12, 13, 16, 17, 19, 20, 21, 23, 24, 25, 27, 28, 29, 31] := by
  revert k
  decide

theorem mode7OfNumber_eq_none_iff {k : Nat} (hk : k < 32) : mode7OfNumber k = none ↔ 7 < k := by
  revert k
  decide

theorem plainOp_eq_none_iff {op : Nat} (hop : op < 16) :
    plainOp op = none ↔ op = 7 ∨ op = 8 ∨ 11 ≤ op := by
  revert op
  decide

/-! ## The command decoder (O4, O5) -/

/-- The four groups of rows of the OP map (R93): the two unpacks of BC6H, the packs of either format, and
the commands that are an OP alone. -/
theorem decodeCmd_cases {w : Word32} {i : Instr} (h : decodeCmd w = .ok i) :
    (w.toNat = 0x207 ∧ i = .bc6hUnpackS) ∨ (w.toNat = 0x007 ∧ i = .bc6hUnpackU) ∨
    (∃ m, w.toNat = 8 + 16 * (refDesc6 m).code ∧ i = .bc6hPack m) ∨
    (∃ m, w.toNat = 11 + 16 * (refDesc7 m).number ∧ i = .bc7Pack m) ∨
    plainOp w.toNat = some i := by
  simp only [decodeCmd] at h
  split_ifs at h with hreserved hop hsigned hmode h7 hs h8 h11
  all_goals have hsum := toNat_eq_sum_fields (not_not.mp hreserved)
  · rw [h7, show modeField w = 0 by omega, hs] at hsum
    exact .inl ⟨hsum, (Except.ok.inj h).symm⟩
  · rw [h7, show modeField w = 0 by omega, Bool.eq_false_of_not_eq_true hs] at hsum
    exact .inr (.inl ⟨hsum, (Except.ok.inj h).symm⟩)
  all_goals rw [show signedField w = false by simp_all, Bool.toNat_false] at hsum
  · split at h
    case h_2 => cases h
    case h_1 m hm =>
      rw [h8, mode6OfCode_eq_some_iff.mp hm] at hsum
      exact .inr (.inr (.inl ⟨m, hsum, (Except.ok.inj h).symm⟩))
  · split at h
    case h_2 => cases h
    case h_1 m hm =>
      rw [h11, mode7OfNumber_eq_some_iff.mp hm] at hsum
      exact .inr (.inr (.inr (.inl ⟨m, hsum, (Except.ok.inj h).symm⟩)))
  · split at h
    case h_2 => cases h
    case h_1 j hj =>
      rw [show w.toNat = opField w by omega, ← Except.ok.inj h]
      exact .inr (.inr (.inr (.inr hj)))

theorem plainOp_mem_commandTable {op : Nat} {i : Instr} (h : plainOp op = some i) :
    (op, i) ∈ Spec.commandTable := by
  unfold plainOp at h
  split at h <;> cases h <;> decide

/-- Each row of the OP map, in both directions (R93). -/
theorem commandTable_rows : ∀ p ∈ Spec.commandTable,
    decodeCmd (BitVec.ofNat 32 p.1) = .ok p.2 ∧ encode refConfig p.2 = .cmd (BitVec.ofNat 32 p.1) := by
  decide

theorem mem_commandTable_of_decodeCmd {w : Word32} {i : Instr} (h : decodeCmd w = .ok i) :
    (w.toNat, i) ∈ Spec.commandTable := by
  rcases decodeCmd_cases h with ⟨hw, rfl⟩ | ⟨hw, rfl⟩ | ⟨m, hw, rfl⟩ | ⟨m, hw, rfl⟩ | hplain
  · rw [hw]; decide
  · rw [hw]; decide
  · rw [hw]; cases m <;> decide
  · rw [hw]; cases m <;> decide
  · exact plainOp_mem_commandTable hplain

/-- Settles O4: a row's word decodes to its instruction by evaluation, and `decodeCmd_cases` leaves no other
word. -/
theorem commandWordsAreTheOpMap : Obligations.CommandWordsAreTheOpMap := by
  refine ⟨fun w i => ⟨mem_commandTable_of_decodeCmd, fun h => ?_⟩, fun p hp => (commandTable_rows p hp).2⟩
  simpa using (commandTable_rows _ h).1

/-- The decoder rejects a word by a clause of R94 over its fields and for no other reason: its last branch,
an OP that `plainOp` lacks, is never reached. -/
theorem decodeCmd_error_iff (w : Word32) : (∃ r, decodeCmd w = .error r) ↔
    12 ≤ opField w ∨ w.extractLsb' 10 22 ≠ 0#22 ∨
    (signedField w = true ∧ opField w ≠ 7) ∨
    (modeField w ≠ 0 ∧ opField w ≠ 8 ∧ opField w ≠ 11) ∨
    (opField w = 8 ∧ mode6OfCode (modeField w) = none) ∨
    (opField w = 11 ∧ mode7OfNumber (modeField w) = none) := by
  simp only [decodeCmd]
  split_ifs with hreserved hop hsigned hmode h7 h8 h11
  · simp [hreserved]
  · simp [hop]
  · simp [hsigned]
  · simp [hmode]
  · have hzero : modeField w = 0 := by omega
    simp [*]
  · cases hm : mode6OfCode (modeField w) <;> simp_all
  · cases hm : mode7OfNumber (modeField w) <;> simp_all
  · have hplain : plainOp (opField w) ≠ none := by
      rw [ne_eq, plainOp_eq_none_iff (opField_lt w)]
      omega
    obtain ⟨i, hi⟩ := Option.ne_none_iff_exists'.mp hplain
    simp_all

/-- Settles O5: the clauses of R94 over the number are those over its fields. -/
theorem illegalWordsAreTheClauses : Obligations.IllegalWordsAreTheClauses := by
  intro w
  have hop : opField w ∈ [12, 13, 14, 15] ↔ 12 ≤ opField w := by
    have := opField_lt w
    simp only [List.mem_cons, List.not_mem_nil, or_false]
    omega
  have hreserved : (w.extractLsb' 10 22).toNat ≠ 0 ↔ w.extractLsb' 10 22 ≠ 0#22 :=
    not_congr (BitVec.toNat_inj (y := 0#22))
  rw [decodeCmd_error_iff, Spec.IllegalWord, bits_op, bits_reserved, bits_signed, bits_mode, hop,
    hreserved, Bool.toNat_eq_one, mode6OfCode_eq_none_iff (modeField_lt w),
    mode7OfNumber_eq_none_iff (modeField_lt w)]

/-- Settles O13: each of the words, decoded. -/
theorem decodedWords : Obligations.DecodedWords := ⟨rfl, rfl, rfl, rfl, rfl⟩

/-! ## The fields of a BC6H block (O8) -/

/-- The field bits of a layout line are those of its span `hi..lo` (R193). -/
theorem lineBit_mem_span {m : Mode6} {l : Line6} (hl : l ∈ refLayout6 m) {k : Nat} (hfirst : l.first ≤ k)
    (hlast : k ≤ l.last) : l.lo ≤ Spec.lineBit l k ∧ Spec.lineBit l k ≤ l.hi := by
  have hspan := line6_span m l hl
  unfold Spec.lineBit
  split <;> omega

/-- Settles O8: a field is gathered from the entries, and the entries are the bits of the layout lines. -/
theorem bc6hFieldsReadTheLayout : Obligations.Bc6hFieldsReadTheLayout := by
  refine fun m b => ⟨fun l hl k hfirst hlast => ?_, fun f j hlines => ?_⟩
  · rw [value6_fields6]
    exact getLsbD_gather_of_mem m b _ (entry_of_line6 m hl hfirst hlast)
  · rw [value6_fields6]
    by_cases hj : j < 16
    case neg => exact BitVec.getLsbD_of_ge _ _ (by omega)
    rw [getLsbD_gather _ _ _ _ hj, List.any_eq_false]
    intro e he hbit
    obtain ⟨l, hl, k, hfirst, hlast, rfl⟩ := (mem_entries6 m e).mp he
    simp only [Bool.and_eq_true, decide_eq_true_eq] at hbit
    obtain ⟨⟨rfl, rfl⟩, -⟩ := hbit
    exact hlines l hl ⟨rfl, lineBit_mem_span hl hfirst hlast⟩

/-! ## A span of a block as a number -/

/-- A read of up to 64 bits is the span's number (R9, R130). -/
theorem toNat_memRead (b : Block) (pos : Nat) {width : Nat} (hw : width ≤ 64) :
    (memRead b pos width).toNat = Spec.field b pos width := by
  apply Nat.eq_of_testBit_eq
  intro k
  rw [BitVec.testBit_toNat, getLsbD_memRead, Spec.field, Nat.testBit_mod_two_pow,
    Nat.testBit_div_two_pow, BitVec.testBit_toNat, Nat.add_comm k pos]
  by_cases hk : k < width
  · simp [hk, show k < 64 by omega]
  · simp [hk]

/-! ## The fields of a BC7 block (O9) -/

theorem readField7_eq_memRead {l : Layout7} {f : Field7} {sp : Span} (b : Block)
    (h : l.fields.lookup f = some sp) : readField7 l b f = memRead b sp.pos sp.width := by
  rw [readField7, h]

theorem readField7_eq_zero {l : Layout7} {f : Field7} (b : Block) (h : l.fields.lookup f = none) :
    readField7 l b f = 0#64 := by
  rw [readField7, h]

/-- No field of BC7 is wider than a byte (R291). -/
theorem fieldWidth7_le (m : Mode7) (f : Field7) : fieldWidth7 m f ≤ 8 := by
  cases f with
  | part => cases m <;> decide
  | rot => cases m <;> decide
  | idxm => cases m <;> decide
  | comp e c => revert e c; cases m <;> decide +kernel
  | pbit k => revert k; cases m <;> decide

theorem width_of_lookup7 {m : Mode7} {f : Field7} {sp : Span}
    (h : (refLayout7 m).fields.lookup f = some sp) : sp.width = fieldWidth7 m f := by
  rw [← lookup_fields7, h]
  rfl

/-- What is read for a field is below two to its width. -/
theorem readField7_lt (m : Mode7) (b : Block) (f : Field7) :
    (readField7 (refLayout7 m) b f).toNat < 2 ^ fieldWidth7 m f := by
  cases h : (refLayout7 m).fields.lookup f with
  | none => rw [readField7_eq_zero b h]; exact Nat.two_pow_pos _
  | some sp => rw [readField7_eq_memRead b h, ← width_of_lookup7 h]; exact memRead_lt ..

/-- A register as wide as a field keeps what is read for it. -/
theorem toNat_setWidth_readField7 (m : Mode7) (b : Block) (f : Field7) {w : Nat}
    (hw : fieldWidth7 m f ≤ w) :
    ((readField7 (refLayout7 m) b f).setWidth w).toNat = (readField7 (refLayout7 m) b f).toNat := by
  rw [BitVec.toNat_setWidth]
  exact Nat.mod_eq_of_lt ((readField7_lt m b f).trans_le (Nat.pow_le_pow_right (by decide) hw))

theorem getLsbD_readField7_of_ge (m : Mode7) (b : Block) (f : Field7) {i : Nat}
    (hi : fieldWidth7 m f ≤ i) : (readField7 (refLayout7 m) b f).getLsbD i = false := by
  rw [← BitVec.testBit_toNat]
  exact Nat.testBit_lt_two_pow
    ((readField7_lt m b f).trans_le (Nat.pow_le_pow_right (by decide) hi))

theorem fieldWidth7_pbit_le (m : Mode7) (k : Fin 6) : fieldWidth7 m (.pbit k) ≤ 1 := by
  rw [fieldWidth7]
  split <;> decide

/-- Stored P-bit `k` is the bit read for it: the P-bits are ORed in one above another (R324). -/
theorem getLsbD_pbits_fields7 (m : Mode7) (b : Block) (k : Fin 6) :
    (fields7 refConfig m b).pbits.getLsbD k.val = (readField7 (refLayout7 m) b (.pbit k)).getLsbD 0 := by
  have hor : (fields7 refConfig m b).pbits.getLsbD k.val = (List.finRange 6).any fun j =>
      ((readField7 (refLayout7 m) b (.pbit j)).setWidth 6 <<< j.val).getLsbD k.val := by
    rw [fields7, getLsbD_foldl_or, BitVec.getLsbD_zero, Bool.false_or]
    rfl
  have hk := k.isLt
  rw [hor, Bool.eq_iff_iff, List.any_eq_true]
  constructor
  · rintro ⟨j, -, hj⟩
    simp only [BitVec.getLsbD_shiftLeft, BitVec.getLsbD_setWidth, Bool.and_eq_true, Bool.not_eq_true',
      decide_eq_true_eq, decide_eq_false_iff_not] at hj
    obtain ⟨⟨-, hle⟩, -, hbit⟩ := hj
    have hlow : k.val - j.val < 1 := by
      by_contra hge
      have hwidth := fieldWidth7_pbit_le m j
      rw [getLsbD_readField7_of_ge m b (.pbit j) (by omega)] at hbit
      cases hbit
    obtain rfl : j = k := Fin.ext (by omega)
    rwa [Nat.sub_self] at hbit
  · intro hbit
    refine ⟨k, List.mem_finRange k, ?_⟩
    simp [hbit, hk]

/-- Every field of a decoded block is what is read for it: the registers cut off none of its bits. -/
theorem rowField7_fields7 (m : Mode7) (b : Block) (f : Field7) :
    Spec.rowField7 (fields7 refConfig m b) f = (readField7 (refLayout7 m) b f).toNat := by
  cases f with
  | part => exact toNat_setWidth_readField7 m b .part (by cases m <;> decide)
  | rot => exact toNat_setWidth_readField7 m b .rot (by cases m <;> decide)
  | idxm => exact toNat_setWidth_readField7 m b .idxm (by cases m <;> decide)
  | comp e c =>
    rw [Spec.rowField7, fields7, epAt_epFile]
    exact toNat_setWidth_readField7 m b (.comp e c) ((fieldWidth7_le m _).trans (by decide))
  | pbit k =>
    have hlt := (readField7_lt m b (.pbit k)).trans_le
      (Nat.pow_le_pow_right (by decide) (fieldWidth7_pbit_le m k))
    rw [Spec.rowField7, getLsbD_pbits_fields7, ← BitVec.testBit_toNat, Nat.toNat_testBit, Nat.pow_zero,
      Nat.div_one, Nat.mod_eq_of_lt hlt]

/-- Settles O9: a field is read with one `memRead` of the span that the layout gives it. -/
theorem bc7FieldsReadTheLayout : Obligations.Bc7FieldsReadTheLayout := by
  intro m b f
  rw [rowField7_fields7]
  cases h : (refLayout7 m).fields.lookup f with
  | none => rw [readField7_eq_zero b h]; rfl
  | some sp =>
    have hwidth := fieldWidth7_le m f
    rw [← width_of_lookup7 h] at hwidth
    rw [readField7_eq_memRead b h, toNat_memRead b sp.pos (by omega)]

/-! ## The indices of a block (O10) -/

/-- The anchors that the model and the statements read are the same pixels (R159). -/
def AnchorsAgree (g : Config) (fmt : Format) (ns : Nat) (p : BitVec 6) : Prop :=
  ∀ i : Pixel, isAnchor g fmt ns p i.val = decide (i.val ∈ Spec.anchorPixels ns p.toNat)

theorem anchorPixels_nodup (ns : Nat) (p : BitVec 6) : (Spec.anchorPixels ns p.toNat).Nodup := by
  unfold Spec.anchorPixels
  split
  · revert p; decide
  · split
    · revert p; decide
    · decide

section Indices

variable {g : Config} {fmt : Format} {ns : Nat} {p : BitVec 6}

theorem widthAt_eq_indexWidth (h : AnchorsAgree g fmt ns p) (nom : Nat) (i : Pixel) :
    widthAt g fmt ns p nom i.val = Spec.indexWidth ns p.toNat nom i.val := by
  simp [widthAt, Spec.indexWidth, h i]

theorem offsetAt_eq_indexOffset (h : AnchorsAgree g fmt ns p) {nom : Nat} (hnom : 1 ≤ nom) (i : Pixel) :
    offsetAt g fmt ns p nom i.val = Spec.indexOffset ns p.toNat nom i.val := by
  have hsum := offsetAt_add_anchors g fmt ns p nom hnom i.val
  have hperm : ((List.range i.val).filter fun j => isAnchor g fmt ns p j).Perm
      ((Spec.anchorPixels ns p.toNat).filter fun a => a < i.val) := by
    rw [List.perm_ext_iff_of_nodup (List.nodup_range.filter _) ((anchorPixels_nodup ns p).filter _)]
    intro j
    simp only [List.mem_filter, List.mem_range, decide_eq_true_eq]
    rw [and_comm]
    refine and_congr_left fun hj => ?_
    simpa using congrArg (· = true) (h ⟨j, by omega⟩)
  rw [Spec.indexOffset, ← hperm.length_eq]
  omega

/-- An index that is read is the span of its field (R103, R229, R328). -/
theorem toNat_getElem_read (a : IndexArray) (h : AnchorsAgree g a.fmt a.ns a.part) (hpos : 1 ≤ a.nom)
    (hnom : a.nom ≤ 4) (b : Block) (i : Pixel) :
    (a.read g b)[i].toNat = Spec.field b (a.first + Spec.indexOffset a.ns a.part.toNat a.nom i.val)
      (Spec.indexWidth a.ns a.part.toNat a.nom i.val) := by
  have hwidth := a.width_le g i
  have hlt := (memRead_lt b (a.pos g i) (a.width g i)).trans_le
    (Nat.pow_le_pow_right (by decide) (hwidth.trans hnom))
  rw [IndexArray.getElem_read, BitVec.toNat_setWidth, Nat.mod_eq_of_lt hlt, toNat_memRead _ _ (by omega),
    IndexArray.pos, IndexArray.width, offsetAt_eq_indexOffset h hpos, widthAt_eq_indexWidth h]

end Indices

theorem anchorsAgree_one (g : Config) (fmt : Format) (p : BitVec 6) : AnchorsAgree g fmt 1 p := by
  intro i
  have hmodel : isAnchor g fmt 1 p i.val = decide (0 = i.val) := by
    cases fmt <;> simp [isAnchor, anchors, Bool.beq_eq_decide_eq]
  rw [hmodel]
  simp [Spec.anchorPixels, eq_comm]

theorem anchorsAgree_desc6 (m : Mode6) (p : BitVec 5) :
    AnchorsAgree refConfig .bc6h (refDesc6 m).ns (p.setWidth 6) := by
  have htwo : AnchorsAgree refConfig .bc6h 2 (p.setWidth 6) := isAnchor_bc6h_two _ (by
    rw [BitVec.toNat_setWidth]; omega)
  have hns : (refDesc6 m).ns = 1 ∨ (refDesc6 m).ns = 2 := by cases m <;> decide
  rcases hns with hns | hns <;> rw [hns]
  · exact anchorsAgree_one _ _ _
  · exact htwo

theorem anchorsAgree_desc7 (m : Mode7) (p : BitVec 6) :
    AnchorsAgree refConfig .bc7 (refDesc7 m).ns p := by
  have hns : (refDesc7 m).ns = 1 ∨ (refDesc7 m).ns = 2 ∨ (refDesc7 m).ns = 3 := by cases m <;> decide
  rcases hns with hns | hns | hns <;> rw [hns]
  · exact anchorsAgree_one _ _ _
  · exact isAnchor_bc7_two p
  · exact isAnchor_bc7_three p

theorem fields7_idx2_of_some {m : Mode7} {ib2 : Nat} (h : (refDesc7 m).ib2 = some ib2) (b : Block) :
    (fields7 refConfig m b).idx2 = (indexArray72 (refLayout7 m) ib2).read refConfig b := by
  have hdesc : (refConfig.desc7 m).ib2 = some ib2 := h
  rw [fields7, hdesc]
  rfl

/-- A mode without a second array has zeros there (R331). -/
theorem fields7_idx2_of_none {m : Mode7} (h : (refDesc7 m).ib2 = none) (b : Block) :
    (fields7 refConfig m b).idx2 = Vector.replicate 16 0#4 := by
  have hdesc : (refConfig.desc7 m).ib2 = none := h
  rw [fields7, hdesc]

theorem ib2_bounds {m : Mode7} {ib2 : Nat} (h : (refDesc7 m).ib2 = some ib2) : 1 ≤ ib2 ∧ ib2 ≤ 4 := by
  cases m <;> cases h <;> decide

/-- Settles O10: each array is read at the widths and offsets of its own anchors. -/
theorem indicesReadTheirBits : Obligations.IndicesReadTheirBits := by
  refine ⟨fun m b i => ?_, fun m b i => ⟨?_, ?_⟩⟩
  · obtain ⟨hle, hge, -⟩ := desc6_bounds m
    have hpart : ((fields6 refConfig m b).part.setWidth 6).toNat = (fields6 refConfig m b).part.toNat :=
      BitVec.toNat_setWidth_of_le (by decide)
    dsimp only
    rw [← hpart]
    exact toNat_getElem_read (indexArray6 (refDesc6 m) ((fields6 refConfig m b).part.setWidth 6))
      (anchorsAgree_desc6 m _) (Nat.le_of_succ_le hge) hle b i
  · obtain ⟨-, hle, hge, -⟩ := desc7_bounds m
    exact toNat_getElem_read (indexArray7 (refDesc7 m) (refLayout7 m) (fields7 refConfig m b).part)
      (anchorsAgree_desc7 m _) (Nat.le_of_succ_le hge) hle b i
  · cases hib : (refDesc7 m).ib2 with
    | none =>
      rw [fields7_idx2_of_none hib, Fin.getElem_fin, Vector.getElem_replicate]
      rfl
    | some ib2 =>
      obtain ⟨hge, hle⟩ := ib2_bounds hib
      rw [fields7_idx2_of_some hib]
      exact toNat_getElem_read (indexArray72 (refLayout7 m) ib2) (anchorsAgree_one _ _ _) hge hle b i

end Sys2Proof

/-! PROOFS. BitField128 (spec/40_bitfield.md): the laws of `extract` and `store` (R132), and what BF.EXTRACT
and BF.STORE do inside and outside the precondition (R133, R134). -/

namespace Sys2Proof

/-! ## Spans, masked values, halves and written bits -/

/-- The precondition fails in exactly the three ways that R130 excludes. -/
theorem not_legalSpan_iff {i n : Nat} : ¬ LegalSpan i n ↔ n < 1 ∨ 64 < n ∨ 128 < i + n := by
  unfold LegalSpan
  omega

/-- `value & mask(n)` is the residue of the value (R9). -/
theorem and_mask_eq_ofNat (v : Word64) (n : Nat) :
    v &&& mask 64 n = BitVec.ofNat 64 (v.toNat % 2 ^ n) := by
  apply BitVec.eq_of_getLsbD_eq
  intro k hk
  rw [BitVec.getLsbD_and, getLsbD_mask, BitVec.getLsbD_ofNat, Nat.testBit_mod_two_pow,
    BitVec.testBit_toNat, decide_eq_true hk, Bool.true_and, Bool.true_and, Bool.and_comm]

theorem extractLsb'_low_append (low high : Word64) : (high ++ low : Block).extractLsb' 0 64 = low := by
  rw [BitVec.extractLsb'_append_eq_of_add_le (by decide)]
  exact BitVec.extractLsb'_eq_self

theorem extractLsb'_high_append (low high : Word64) : (high ++ low : Block).extractLsb' 64 64 = high := by
  rw [BitVec.extractLsb'_append_eq_of_le (by decide)]
  exact BitVec.extractLsb'_eq_self

/-- A legal span lies inside the block, so a write fixes every bit, those past the block too. -/
theorem getLsbD_memWrite_of_legal (b : Block) {i n : Nat} (v : Word64) (h : LegalSpan i n) (k : Nat) :
    (memWrite b i n v).getLsbD k =
      if i ≤ k ∧ k < i + n then v.getLsbD (k - i) else b.getLsbD k := by
  obtain ⟨-, hn, hend⟩ := h
  split
  case isTrue hin => rw [getLsbD_memWrite b i n v hn k (by omega), if_pos hin]
  case isFalse hout => exact getLsbD_memWrite_of_outside b i n v hn k (by omega)

/-! ## The three laws (O16) -/

/-- What a store makes of the halves, read at any legal span. -/
theorem extract_of_store {low high lo hi v : Word64} {i n j m : Nat}
    (hstore : store low high i n v = some (lo, hi)) (h : LegalSpan i n) (hjm : LegalSpan j m) :
    extract lo hi j m = some (memRead (memWrite (high ++ low) i n v) j m) := by
  rw [store_of_legal low high v h] at hstore
  cases hstore
  rw [extract_of_legal _ _ hjm, extractLsb'_append_self]

/-- Storing what a legal span holds gives the two halves back. -/
theorem store_memRead_same (low high : Word64) {i n : Nat} (h : LegalSpan i n) :
    store low high i n (memRead (high ++ low) i n) = some (low, high) := by
  have ⟨_, hn, _⟩ := h
  rw [store_of_legal low high _ h, memWrite_memRead_same _ i n hn, extractLsb'_low_append,
    extractLsb'_high_append]

/-- Settles O16: each law is the law of `memRead` and `memWrite` on the block of the two halves. -/
theorem extractStoreLaws : Obligations.ExtractStoreLaws := by
  intro low high i n h
  have ⟨_, hn, _⟩ := h
  refine ⟨fun v => ?_, _, extract_of_legal low high h, store_memRead_same low high h⟩
  have hstore := store_of_legal low high v h
  refine ⟨_, _, hstore, ?_, fun j m hjm hdisjoint => ?_⟩
  · rw [extract_of_store hstore h h, memRead_memWrite_same _ i n v h, and_mask_eq_ofNat]
  · rw [extract_of_store hstore h hjm, extract_of_legal low high hjm,
      memRead_memWrite_disjoint _ i n j m v hn hdisjoint]

end Sys2Proof

namespace Sys2Proof.Machine

/-! ## BF.EXTRACT and BF.STORE inside and outside the precondition -/

section BitFieldCommands
variable {s : State}

theorem exec_bfExtract_of_legal (h : LegalSpan s.bfIndex.toNat s.bfCount.toNat) :
    exec .bfExtract s =
      .next (s.setBfValue (memRead s.blk s.bfIndex.toNat s.bfCount.toNat)).completePlain := by
  simp only [exec, execBfExtract, extract_of_legal _ _ h, State.blk]

theorem exec_bfExtract_of_illegal (h : ¬ LegalSpan s.bfIndex.toNat s.bfCount.toNat) :
    exec .bfExtract s = .next (s.raise .bitfieldRange) := by
  simp only [exec, execBfExtract, extract_of_illegal _ _ h]

theorem exec_bfStore_of_legal (h : LegalSpan s.bfIndex.toNat s.bfCount.toNat) :
    exec .bfStore s =
      .next (s.setBlk
        (memWrite s.blk s.bfIndex.toNat s.bfCount.toNat s.bfValue)).completePlain := by
  simp only [exec, execBfStore, store_of_legal _ _ _ h, extractLsb'_append_self, State.blk]

theorem exec_bfStore_of_illegal (h : ¬ LegalSpan s.bfIndex.toNat s.bfCount.toNat) :
    exec .bfStore s = .next (s.raise .bitfieldRange) := by
  simp only [exec, execBfStore, store_of_illegal _ _ _ h]

end BitFieldCommands

/-! ## The two commands (O14, O15) -/

/-- Settles O14: inside the precondition the value read is the span's number; outside it the command
raises. -/
theorem bfExtractReadsTheSpan : Obligations.BfExtractReadsTheSpan := by
  refine fun s => ⟨fun h => ?_, fun h => exec_bfExtract_of_illegal (not_legalSpan_iff.mpr h)⟩
  have ⟨_, hn, _⟩ := h
  exact ⟨_, exec_bfExtract_of_legal h, toNat_memRead s.blk s.bfIndex.toNat hn⟩

/-- Settles O15: inside the precondition the new block is the old one written at the span; outside it the
command raises. -/
theorem bfStoreWritesTheSpan : Obligations.BfStoreWritesTheSpan := by
  refine fun s => ⟨fun h => ?_, fun h => exec_bfStore_of_illegal (not_legalSpan_iff.mpr h)⟩
  refine ⟨_, exec_bfStore_of_legal h, rfl, fun k => ?_⟩
  rw [State.completePlain_blk, State.setBlk_blk]
  exact getLsbD_memWrite_of_legal s.blk s.bfValue h k

end Sys2Proof.Machine

/-! PROOFS. Partition tables (spec/41_partition_tables.md): the invariants of the tables (R157), what
PT.SUBSET, PT.IDXWIDTH and PT.IDXOFFSET answer (R163 to R166), and the anchors' indices after an unpack
(R162). -/

namespace Sys2Proof

/-! ## The invariants of the tables (O17) -/

/-- Invariants (a), (b) and (c) of R157 hold of the reference tables, table by table. -/
theorem partitionLaws_refConfig : refConfig.PartitionLaws := by
  refine ⟨?_, ?_, ?_, ?_, ?_, ?_, ?_, ?_, ?_, ?_, ?_⟩ <;> decide

namespace Config.PartitionLaws

variable {g : Config} (h : g.PartitionLaws)
include h

/-- Subset 0 holds pixel 0 and subset 1 its anchor. -/
theorem exists_p2Bc7 (p : Fin 64) (k : Fin 2) : ∃ i, g.p2Bc7 p i = k := by
  obtain ⟨hzero, -, -, -, -, -, -, hone, -⟩ := h
  fin_cases k
  · exact ⟨_, hzero p⟩
  · exact ⟨_, hone p⟩

theorem exists_p2Bc6h (p : Fin 32) (k : Fin 2) : ∃ i, g.p2Bc6h p i = k := by
  obtain ⟨-, hzero, -, -, -, -, -, -, hone, -⟩ := h
  fin_cases k
  · exact ⟨_, hzero p⟩
  · exact ⟨_, hone p⟩

theorem exists_p3Bc7 (p : Fin 64) (k : Fin 3) : ∃ i, g.p3Bc7 p i = k := by
  obtain ⟨-, -, hzero, -, -, -, -, -, -, hone, htwo⟩ := h
  fin_cases k
  · exact ⟨_, hzero p⟩
  · exact ⟨_, hone p⟩
  · exact ⟨_, htwo p⟩

/-- The two anchors of a row of three subsets lie in different subsets. -/
theorem a3aBc7_ne_a3bBc7 (p : Fin 64) : g.a3aBc7 p ≠ g.a3bBc7 p := by
  obtain ⟨-, -, -, -, -, -, -, -, -, hone, htwo⟩ := h
  intro heq
  have hsubset : (1 : Fin 3) = 2 := by rw [← hone p, heq, htwo p]
  exact absurd hsubset (by decide)

end Config.PartitionLaws

/-- Settles O17: the anchors lie in their subsets, so every subset is held and two anchors differ. -/
theorem partitionTableInvariants : Obligations.PartitionTableInvariants :=
  have h := partitionLaws_refConfig
  ⟨h, h.exists_p2Bc7, h.exists_p2Bc6h, h.exists_p3Bc7, h.a3aBc7_ne_a3bBc7⟩

/-! ## The index of an anchor -/

/-- An anchor's index fits one bit fewer than the nominal width (R162). -/
theorem toNat_getElem_read_anchor_lt {g : Config} (a : IndexArray) (h : AnchorsAgree g a.fmt a.ns a.part)
    (b : Block) {i : Pixel} (hi : i.val ∈ Spec.anchorPixels a.ns a.part.toNat) :
    (a.read g b)[i].toNat < 2 ^ (a.nom - 1) := by
  have hfits := of_decide_eq_true (a.fits_read g b) i
  rwa [IndexArray.width, widthAt_eq_indexWidth h, Spec.indexWidth, if_pos hi] at hfits

end Sys2Proof

namespace Sys2Proof.Machine

/-! ## The legal queries and their tables (R166) -/

/-- The model checks the clauses of R166. -/
theorem legalQuery_iff (needNom : Bool) (s : State) :
    legalQuery needNom (queryFormat s.ptq) (queryNs s.ptq) s.part (queryNom s.ptq) = true ↔
      Spec.LegalQuery needNom s := by
  simp [legalQuery, Spec.LegalQuery, and_assoc, or_assoc, imp_iff_not_or]

/-- A legal query asks for one subset, a row of the BC6H table, or a row of one of the BC7 tables. -/
theorem legalQuery_table {needNom : Bool} {s : State} (h : Spec.LegalQuery needNom s) :
    queryNs s.ptq = 1 ∨
    (queryFormat s.ptq = .bc6h ∧ queryNs s.ptq = 2 ∧ s.part.toNat ≤ 31) ∨
    (queryFormat s.ptq = .bc7 ∧ (queryNs s.ptq = 2 ∨ queryNs s.ptq = 3)) := by
  obtain ⟨hns, hthree, hrow, -⟩ := h
  simp only [List.mem_cons, List.not_mem_nil, or_false] at hns
  rcases hns with hns | hns | hns <;> cases hfmt : queryFormat s.ptq
  · exact .inl hns
  · exact .inl hns
  · exact .inr (.inl ⟨rfl, hns, by simpa [hns, hfmt] using hrow⟩)
  · exact .inr (.inr ⟨rfl, .inl hns⟩)
  · exact absurd ⟨hns, hfmt⟩ hthree
  · exact .inr (.inr ⟨rfl, .inr hns⟩)

/-- The entry a legal query asks for is the printed one (R158). -/
theorem subsetAt_of_legalQuery {needNom : Bool} {s : State} (h : Spec.LegalQuery needNom s) (i : Pixel) :
    (subsetAt refConfig (queryFormat s.ptq) (queryNs s.ptq) s.part i).val =
      Spec.subset (queryNs s.ptq) s.part.toNat i := by
  rcases legalQuery_table h with hns | ⟨hfmt, hns, hrow⟩ | ⟨hfmt, hns | hns⟩
  · rw [hns]; cases queryFormat s.ptq <;> rfl
  · rw [hfmt, hns]; exact subsetAt_bc6h_two s.part hrow i
  · rw [hfmt, hns]; exact subsetAt_bc7_two s.part i
  · rw [hfmt, hns]; exact subsetAt_bc7_three s.part i

/-- The anchors a legal query asks about are the printed ones (R159). -/
theorem anchorsAgree_of_legalQuery {needNom : Bool} {s : State} (h : Spec.LegalQuery needNom s) :
    AnchorsAgree refConfig (queryFormat s.ptq) (queryNs s.ptq) s.part := by
  rcases legalQuery_table h with hns | ⟨hfmt, hns, hrow⟩ | ⟨hfmt, hns | hns⟩
  · rw [hns]; exact anchorsAgree_one _ _ _
  · rw [hfmt, hns]; exact isAnchor_bc6h_two s.part hrow
  · rw [hfmt, hns]; exact isAnchor_bc7_two s.part
  · rw [hfmt, hns]; exact isAnchor_bc7_three s.part

/-! ## How a query ends (O18, O19, O20) -/

theorem State.answerQuery_some (s : State) (v : Nat) : s.answerQuery (some v) = { s with
    ptr := BitVec.ofNat 8 v
    status := statusWord s.status 0#3 false 0#5 0#2 } := rfl

theorem State.answerQuery_none (s : State) :
    s.answerQuery none = { s with status := statusWord s.status 5#3 false 0#5 0#2 } := rfl

/-- Settles O18: the query's check is the one of R166, and the entry is the printed one. -/
theorem ptSubsetAnswers : Obligations.PtSubsetAnswers := by
  intro s
  have hlegal : legalQuery false (queryFormat s.ptq) (queryNs s.ptq) s.part 0 = true ↔
      Spec.LegalQuery false s := legalQuery_iff false s
  simp only [exec, execPtSubset, subsetOf]
  refine ⟨fun h => ?_, fun h => ?_⟩
  · rw [if_pos (hlegal.mpr h), subsetAt_of_legalQuery h, State.answerQuery_some]
  · rw [if_neg (hlegal.not.mpr h), State.answerQuery_none]

/-- Settles O19: the query's check is the one of R166, and the anchors are the printed ones. -/
theorem ptIdxWidthAnswers : Obligations.PtIdxWidthAnswers := by
  intro s
  have hlegal := legalQuery_iff true s
  simp only [exec, execPtIdxWidth, indexBitWidth]
  refine ⟨fun h => ?_, fun h => ?_⟩
  · rw [if_pos (hlegal.mpr h), widthAt_eq_indexWidth (anchorsAgree_of_legalQuery h), State.answerQuery_some]
  · rw [if_neg (hlegal.not.mpr h), State.answerQuery_none]

/-- Settles O20: the sum of the widths before the pixel has the closed form of R161. -/
theorem ptIdxOffsetAnswers : Obligations.PtIdxOffsetAnswers := by
  intro s
  have hlegal := legalQuery_iff true s
  simp only [exec, execPtIdxOffset, indexBitOffset]
  refine ⟨fun h => ?_, fun h => ?_⟩
  · have ⟨_, _, _, hnom⟩ := h
    rw [if_pos (hlegal.mpr h), offsetAt_eq_indexOffset (anchorsAgree_of_legalQuery h) (hnom rfl),
      State.answerQuery_some]
  · rw [if_neg (hlegal.not.mpr h), State.answerQuery_none]

/-! ## The anchors after an unpack (O21) -/

theorem unpack6_of_mode {s : State} {m : Mode6} (h : modeOf6 s.blk = some m) (signed : Bool) :
    unpack6 refConfig signed s = live6 refConfig m signed (fields6 refConfig m s.blk) s := by
  rw [unpack6, h]

theorem unpack7_of_mode {s : State} {m : Mode7} (h : modeOf7 s.blk = some m) :
    unpack7 refConfig s = live7 refConfig m (fields7 refConfig m s.blk) s := by
  rw [unpack7, h]

/-- In either profile, an unpack of a live BC6H block leaves anchor indices with a zero top bit. -/
theorem unpack6_anchor_lt {s : State} {m : Mode6} (hm : modeOf6 s.blk = some m) (signed : Bool)
    {i : Pixel} (hi : i.val ∈ Spec.anchorPixels (refDesc6 m).ns (unpack6 refConfig signed s).part.toNat) :
    (unpack6 refConfig signed s).idx[i].toNat < 2 ^ ((refDesc6 m).nom - 1) := by
  rw [unpack6_of_mode hm] at hi ⊢
  exact toNat_getElem_read_anchor_lt
    (indexArray6 (refDesc6 m) ((fields6 refConfig m s.blk).part.setWidth 6))
    (anchorsAgree_desc6 m _) s.blk hi

theorem unpack7_anchor_lt {s : State} {m : Mode7} (hm : modeOf7 s.blk = some m)
    {i : Pixel} (hi : i.val ∈ Spec.anchorPixels (refDesc7 m).ns (unpack7 refConfig s).part.toNat) :
    (unpack7 refConfig s).idx[i].toNat < 2 ^ ((refDesc7 m).ib - 1) := by
  rw [unpack7_of_mode hm] at hi ⊢
  exact toNat_getElem_read_anchor_lt
    (indexArray7 (refDesc7 m) (refLayout7 m) (fields7 refConfig m s.blk).part)
    (anchorsAgree_desc7 m _) s.blk hi

/-- The second array has one subset, whose anchor is pixel 0. -/
theorem unpack7_idx2_zero_lt {s : State} {m : Mode7} (hm : modeOf7 s.blk = some m) {ib2 : Nat}
    (hib2 : (refDesc7 m).ib2 = some ib2) :
    (unpack7 refConfig s).idx2[0].toNat < 2 ^ (ib2 - 1) := by
  have hidx2 : (unpack7 refConfig s).idx2 = (indexArray72 (refLayout7 m) ib2).read refConfig s.blk := by
    rw [unpack7_of_mode hm, ← fields7_idx2_of_some hib2]
    rfl
  simp only [hidx2]
  exact toNat_getElem_read_anchor_lt (indexArray72 (refLayout7 m) ib2) (anchorsAgree_one _ _ _) s.blk
    (i := 0) (List.mem_singleton_self 0)

/-- Settles O21: every array is read with the width that `PART`'s anchors leave it. -/
theorem anchorIndicesHaveTopBitZero : Obligations.AnchorIndicesHaveTopBitZero := by
  refine fun s t => ⟨fun m hm ht i hi => ?_, fun m hm ht => ?_⟩
  · rw [exec_bc6hUnpackU, exec_bc6hUnpackS] at ht
    rcases ht with ht | ht <;> cases ht
    · exact unpack6_anchor_lt hm false hi
    · exact unpack6_anchor_lt hm true hi
  · rw [exec_bc7Unpack] at ht
    cases ht
    exact ⟨fun i hi => unpack7_anchor_lt hm hi, fun ib2 hib2 => unpack7_idx2_zero_lt hm hib2⟩

end Sys2Proof.Machine

/-! PROOFS. The shared interpolation primitive (spec/42_interpolation.md): the ends of the weight tables
(R180) and the value of the formula at them and between them (R181). -/

namespace Sys2Proof.Machine

/-! ## The weights -/

/-- The weight table of an index width, at an index that fits it (R180). -/
theorem weight_eq_weightOf {n : Nat} (hn : n = 2 ∨ n = 3 ∨ n = 4) {idx : BitVec 4}
    (hidx : idx.toNat < 2 ^ n) : weight refConfig n idx = Spec.weightOf n idx.toNat := by
  rcases hn with rfl | rfl | rfl
  · exact congrArg (weights2.getD · 0) (Nat.mod_eq_of_lt hidx)
  · exact congrArg (weights3.getD · 0) (Nat.mod_eq_of_lt hidx)
  · rfl

theorem weight_first {n : Nat} (hn : n = 2 ∨ n = 3 ∨ n = 4) : weight refConfig n 0#4 = 0 := by
  rcases hn with rfl | rfl | rfl <;> rfl

theorem weight_last {n : Nat} (hn : n = 2 ∨ n = 3 ∨ n = 4) :
    weight refConfig n (BitVec.ofNat 4 (2 ^ n - 1)) = 64 := by
  rcases hn with rfl | rfl | rfl <;> rfl

/-! ## The interpolated value at a weight -/

/-- The division of `interp` is the arithmetic shift of R181, whose count of 6 is read as an integer. -/
theorem interp_eq_mix (g : Config) (e0 e1 : Int) (idx : BitVec 4) (n : Nat) :
    interp g e0 e1 idx n = Spec.mix e0 e1 (weight g n idx) := by
  have hcount (m : Int) : m >>> (6 : Int) = m >>> (6 : Nat) := Int.shiftRight_natCast_right m 6
  simp only [interp, Spec.mix, hcount, Int.shiftRight_eq_div_pow, Nat.reducePow, Nat.cast_ofNat]

theorem interp_of_weight_zero {g : Config} {idx : BitVec 4} {n : Nat} (h : weight g n idx = 0)
    (e0 e1 : Int) : interp g e0 e1 idx n = e0 := by
  rw [interp, h]
  omega

theorem interp_of_weight_full {g : Config} {idx : BitVec 4} {n : Nat} (h : weight g n idx = 64)
    (e0 e1 : Int) : interp g e0 e1 idx n = e1 := by
  rw [interp, h]
  omega

/-- Settles O22: the ends of a weight table are 0 and 64, and a weight between them keeps the value between
the endpoints. -/
theorem interpolationIsBetween : Obligations.InterpolationIsBetween := by
  intro n hn e0 e1
  refine ⟨interp_of_weight_zero (weight_first hn) e0 e1, interp_of_weight_full (weight_last hn) e0 e1,
    fun idx hidx => ⟨?_, ?_⟩⟩
  · rw [interp_eq_mix, weight_eq_weightOf hn hidx]
  · exact interp_mem_Icc ⟨min_le_left e0 e1, le_max_left e0 e1⟩ ⟨min_le_right e0 e1, le_max_right e0 e1⟩
      idx n

end Sys2Proof.Machine

/-! PROOFS. The mode tables and the codec as a bijection (spec/43_bc6h_modes.md R209; spec/46_bc7_modes.md
R303): what decoding an encoded block gives back, and what encoding a decoded one does. -/

namespace Sys2Proof

/-! ## The layouts tile the header (O23) -/

/-- R209 (a), mode by mode. -/
theorem length_lines6_at (m : Mode6) : ∀ k < (refDesc6 m).indexBegin,
    ((refLayout6 m).filter fun l => decide (l.first ≤ k ∧ k ≤ l.last)).length =
      if k < (refDesc6 m).selBits then 0 else 1 := by
  cases m <;> decide +kernel

/-- R303 (a), mode by mode. -/
theorem length_fields7_at (m : Mode7) : ∀ k < (refLayout7 m).indexBegin,
    ((refLayout7 m).fields.filter fun x => decide (x.2.pos ≤ k ∧ k < x.2.pos + x.2.width)).length =
      if k ≤ (refDesc7 m).number then 0 else 1 := by
  cases m <;> decide +kernel

/-- Settles O23: the 22 tables, each evaluated at every bit of its header. -/
theorem layoutsTileTheHeader : Obligations.LayoutsTileTheHeader := ⟨length_lines6_at, length_fields7_at⟩

/-! ## The mode selectors (R95, R98, R208, R302) -/

theorem modeOf6_eq (b : Block) : modeOf6 b =
    mode6OfCode (if Spec.field b 1 1 = 0 then Spec.field b 0 2 else Spec.field b 0 5) := by
  rw [modeOf6, apply_ite mode6OfCode, toNat_memRead _ _ (by decide), toNat_memRead _ _ (by decide),
    toNat_memRead _ _ (by decide)]

/-- Bit 1 and the two-bit selector, within the five-bit one. -/
theorem field_selector6 (b : Block) : Spec.field b 1 1 = Spec.field b 0 5 / 2 % 2 ∧
    Spec.field b 0 2 = Spec.field b 0 5 % 4 ∧ Spec.field b 0 5 < 32 := by
  simp only [Spec.field]
  omega

/-- A BC6H block is of the mode whose code stands in the selector, at the width of that mode's selector
(R95, R96). -/
theorem modeOf6_eq_some_iff {b : Block} {m : Mode6} :
    modeOf6 b = some m ↔ Spec.field b 0 (refDesc6 m).selBits = (refDesc6 m).code := by
  obtain ⟨hbit, htwo, hlt⟩ := field_selector6 b
  rw [modeOf6_eq, mode6OfCode_eq_some_iff]
  split_ifs with hzero
  · cases m <;> simp only [refDesc6] <;> omega
  · cases m <;> simp only [refDesc6] <;> omega

/-- The selectors of Unknown (R208). -/
theorem modeOf6_eq_none_iff {b : Block} :
    modeOf6 b = none ↔ Spec.field b 0 5 ∈ [19, 23, 27, 31] := by
  obtain ⟨hbit, htwo, hlt⟩ := field_selector6 b
  rw [modeOf6_eq, mode6OfCode_eq_none_iff (by split_ifs <;> omega)]
  simp only [List.mem_cons, List.not_mem_nil, or_false]
  split_ifs <;> omega

theorem lowestSet_eq_some_iff {b : Block} {m n j : Nat} : lowestSet b m n = some j ↔
    m ≤ j ∧ j < m + n ∧ b.getLsbD j = true ∧ ∀ k, m ≤ k → k < j → b.getLsbD k = false := by
  induction n generalizing m with
  | zero => simp only [lowestSet, reduceCtorEq, false_iff]; omega
  | succ n ih =>
    simp only [lowestSet, memRead_one, Bool.toNat_eq_one]
    split_ifs with hbit
    · rw [Option.some_inj]
      constructor
      · rintro rfl
        exact ⟨le_rfl, by omega, hbit, fun k _ _ => by omega⟩
      · rintro ⟨hle, -, -, hlow⟩
        by_contra hne
        rw [hlow m le_rfl (by omega)] at hbit
        cases hbit
    · rw [ih]
      constructor
      · rintro ⟨hle, hlt, hj, hlow⟩
        refine ⟨by omega, by omega, hj, fun k hk hkj => ?_⟩
        rcases Nat.eq_or_lt_of_le hk with rfl | hk
        · exact Bool.eq_false_of_not_eq_true hbit
        · exact hlow k hk hkj
      · rintro ⟨hle, hlt, hj, hlow⟩
        have hne : m ≠ j := by rintro rfl; exact hbit hj
        exact ⟨by omega, by omega, hj, fun k hk => hlow k (by omega)⟩

/-- A BC7 block is of the mode whose bit is the lowest one set (R98). -/
theorem modeOf7_eq_some_iff {b : Block} {m : Mode7} : modeOf7 b = some m ↔
    b.getLsbD (refDesc7 m).number = true ∧ ∀ k < (refDesc7 m).number, b.getLsbD k = false := by
  have hle := (desc7_bounds m).1
  simp only [modeOf7, Option.bind_eq_some_iff, mode7OfNumber_eq_some_iff, exists_eq_right,
    lowestSet_eq_some_iff, Nat.zero_le, true_and, forall_const]
  exact and_iff_right (by omega)

theorem modeOf7_eq_none_iff {b : Block} : modeOf7 b = none ↔ Spec.field b 0 8 = 0 := by
  constructor
  · intro h
    by_contra hne
    obtain ⟨m, hm⟩ := exists_modeOf7 hne
    rw [h] at hm
    cases hm
  · intro h
    rw [Option.eq_none_iff_forall_ne_some]
    intro m hm
    have hle := (desc7_bounds m).1
    have hbit : (Spec.field b 0 8).testBit (refDesc7 m).number = true := by
      rw [Spec.field, Nat.testBit_mod_two_pow, Nat.pow_zero, Nat.div_one, BitVec.testBit_toNat,
        (modeOf7_eq_some_iff.mp hm).1, Bool.and_true, decide_eq_true_eq]
      omega
    rw [h, Nat.zero_testBit] at hbit
    cases hbit

/-! ## Spans and index arrays -/

theorem getLsbD_eq_of_memRead_eq {b b' : Block} {w k : Nat} (h : memRead b 0 w = memRead b' 0 w)
    (hw : w ≤ 64) (hk : k < w) : b.getLsbD k = b'.getLsbD k := by
  have hbit := congrArg (BitVec.getLsbD · k) h
  simpa only [getLsbD_memRead, Nat.zero_add, hk, show k < 64 by omega, decide_true, Bool.true_and]
    using hbit

/-- An array whose fields hold indices that fit is read as those indices (R262). -/
theorem IndexArray.read_eq {g : Config} {a : IndexArray} {idx : IdxFile} {b : Block}
    (hfits : a.fits g idx = true)
    (hb : ∀ i : Pixel, memRead b (a.pos g i) (a.width g i) =
      idx[i].setWidth 64 &&& mask 64 (a.width g i)) : a.read g b = idx := by
  apply Vector.ext
  intro i hi
  have hlt := of_decide_eq_true hfits ⟨i, hi⟩
  have hread := a.getElem_read g b ⟨i, hi⟩
  rw [hb, and_mask_of_lt _ _ (by rwa [BitVec.toNat_setWidth_of_le (by decide)])] at hread
  simpa using hread

/-- Writing back an index that was read writes what its field holds (R262). -/
theorem IndexArray.getElem_read_and_mask {g : Config} {a : IndexArray} (hnom : a.nom ≤ 4) (b : Block)
    (i : Pixel) : (a.read g b)[i].setWidth 64 &&& mask 64 (a.width g i) =
      memRead b (a.pos g i) (a.width g i) := by
  have hlt := memRead_lt b (a.pos g i) (a.width g i)
  have hlt4 := hlt.trans_le (Nat.pow_le_pow_right (by decide) ((a.width_le g i).trans hnom))
  have hkeep : (a.read g b)[i].setWidth 64 = memRead b (a.pos g i) (a.width g i) := by
    apply BitVec.eq_of_toNat_eq
    rw [a.getElem_read, BitVec.toNat_setWidth_of_le (by decide), BitVec.toNat_setWidth,
      Nat.mod_eq_of_lt hlt4]
  rw [hkeep, and_mask_of_lt _ _ hlt]

/-! ## BC6H blocks (R209 (b), (d)) -/

/-- Well formed: every field fits its width, and every index its own. -/
theorem wf6_iff {m : Mode6} {f : Fields6} : wf6 refConfig m f = true ↔
    (∀ x, (value6 f x).toNat < 2 ^ fieldWidth6 m x) ∧
    (indexArray6 (refDesc6 m) (f.part.setWidth 6)).fits refConfig f.idx = true := by
  have hpart : (refDesc6 m).ns = 2 ∨ f.part = 0#5 ↔ (value6 f .d).toNat < 2 ^ fieldWidth6 m .d := by
    rw [value6, fieldWidth6, BitVec.toNat_setWidth_of_le (by decide)]
    split_ifs with hns
    · simp [hns, f.part.isLt]
    · simp [hns, ← BitVec.toNat_inj]
  have hfields : (∀ x, (value6 f x).toNat < 2 ^ fieldWidth6 m x) ↔
      (∀ e c, (value6 f (.comp e c)).toNat < 2 ^ fieldWidth6 m (.comp e c)) ∧
      (value6 f .d).toNat < 2 ^ fieldWidth6 m .d :=
    ⟨fun h => ⟨fun e c => h _, h _⟩, fun ⟨hcomp, hd⟩ x => by cases x <;> simp only [hcomp, hd]⟩
  rw [hfields, ← hpart]
  simp only [wf6, Bool.and_eq_true, Bool.or_eq_true, beq_iff_eq, compsFit, decide_eq_true_eq]
  rfl

theorem modeOf6_encodeBlock6 (m : Mode6) (f : Fields6) :
    modeOf6 (encodeBlock6 refConfig m f) = some m := by
  rw [modeOf6_eq_some_iff, ← toNat_memRead _ _ (by cases m <;> decide), memRead_encodeBlock6_selector]
  cases m <;> rfl

/-- Gathering a field of an encoded block gives the operand back: each of its bits has one entry, and the
bits above its width are zero on both sides. -/
theorem gather_encodeBlock6 {m : Mode6} {f : Fields6} (hf : wf6 refConfig m f = true) (x : Field6) :
    gather (entries6 refConfig m) (encodeBlock6 refConfig m f) x = value6 f x := by
  apply BitVec.eq_of_getLsbD_eq
  intro k _
  by_cases hk : k < fieldWidth6 m x
  · obtain ⟨e, he, rfl, rfl⟩ := entries6_complete m x k hk
    rw [getLsbD_gather_of_mem m _ e he, getLsbD_encodeBlock6_entry m f e he]
  · have hlt := ((wf6_iff.mp hf).1 x).trans_le (Nat.pow_le_pow_right (by decide) (Nat.not_lt.mp hk))
    rw [getLsbD_gather_of_ge m _ x k (Nat.not_lt.mp hk), ← BitVec.testBit_toNat,
      Nat.testBit_lt_two_pow hlt]

/-- Equal values of the field `d` are equal partition operands: 16 bits hold all five. -/
theorem part_eq_of_value6 {f f' : Fields6} (h : value6 f .d = value6 f' .d) : f.part = f'.part := by
  simpa [value6, ← BitVec.toNat_inj] using congrArg (BitVec.setWidth 5) h

theorem fields6_ext {f f' : Fields6} (hfield : ∀ x, value6 f x = value6 f' x) (hidx : f.idx = f'.idx) :
    f = f' := by
  have hpart := part_eq_of_value6 (hfield .d)
  obtain ⟨raw, part, idx⟩ := f
  obtain ⟨raw', part', idx'⟩ := f'
  obtain rfl : raw = raw' := ep_ext fun e c => hfield (.comp e c)
  obtain rfl : part = part' := hpart
  obtain rfl : idx = idx' := hidx
  rfl

/-- Decoding the block of well-formed operands gives them back (R209). -/
theorem fields6_encodeBlock6 {m : Mode6} {f : Fields6} (hf : wf6 refConfig m f = true) :
    fields6 refConfig m (encodeBlock6 refConfig m f) = f := by
  have hfield : ∀ x, value6 (fields6 refConfig m (encodeBlock6 refConfig m f)) x = value6 f x := fun x => by
    rw [value6_fields6, gather_encodeBlock6 hf]
  have hpart := part_eq_of_value6 (hfield .d)
  refine fields6_ext hfield ?_
  show (indexArray6 (refDesc6 m) ((fields6 refConfig m (encodeBlock6 refConfig m f)).part.setWidth 6)).read
    refConfig (encodeBlock6 refConfig m f) = f.idx
  rw [hpart]
  exact IndexArray.read_eq (wf6_iff.mp hf).2 (memRead_encodeBlock6_index m f)

/-- The block of a live block's fields is the block (R209 (d)). -/
theorem encodeBlock6_fields6 {m : Mode6} {b : Block} (hm : modeOf6 b = some m) :
    encodeBlock6 refConfig m (fields6 refConfig m b) = b := by
  have hsel : ∀ b', modeOf6 b' = some m →
      memRead b' 0 (refDesc6 m).selBits = BitVec.ofNat 64 (refDesc6 m).code := fun b' h => by
    apply BitVec.eq_of_toNat_eq
    rw [toNat_memRead _ _ (by cases m <;> decide), modeOf6_eq_some_iff.mp h]
    cases m <;> rfl
  refine block6_ext m ((fields6 refConfig m b).part.setWidth 6) _ _ (fun k hk => ?_) (fun e he => ?_)
    fun i => ?_
  · exact getLsbD_eq_of_memRead_eq ((hsel _ (modeOf6_encodeBlock6 m _)).trans (hsel b hm).symm)
      (by cases m <;> decide) hk
  · rw [getLsbD_encodeBlock6_entry m _ e he, value6_fields6, getLsbD_gather_of_mem m b e he]
  · refine (memRead_encodeBlock6_index m _ i).trans ?_
    exact IndexArray.getElem_read_and_mask (desc6_bounds m).1 b i

/-! ## BC7 blocks (R303) -/

theorem modeOf7_encodeBlock7 (m : Mode7) (f : Fields7) :
    modeOf7 (encodeBlock7 refConfig m f) = some m :=
  modeOf7_eq_some_iff.mpr (encodeBlock7_selector m f)

/-- The placed bits of a field's operand are the statements' number for it, where that fits the field: a
P-bit is cut out of all of them, and any other operand is placed whole. -/
theorem toNat_value7_and_mask {m : Mode7} {f : Fields7} {x : Field7}
    (h : Spec.rowField7 f x < 2 ^ fieldWidth7 m x) :
    (value7 f x &&& mask 64 (fieldWidth7 m x)).toNat = Spec.rowField7 f x := by
  have hwhole : (value7 f x).toNat = Spec.rowField7 f x →
      (value7 f x &&& mask 64 (fieldWidth7 m x)).toNat = Spec.rowField7 f x := fun heq => by
    rw [and_mask_of_lt _ _ (heq ▸ h), heq]
  cases x with
  | part => exact hwhole (BitVec.toNat_setWidth_of_le (by decide))
  | rot => exact hwhole (BitVec.toNat_setWidth_of_le (by decide))
  | idxm => exact hwhole (BitVec.toNat_setWidth_of_le (by decide))
  | comp e c => exact hwhole (BitVec.toNat_setWidth_of_le (by decide))
  | pbit k =>
    have hplaced : (value7 f (.pbit k)).toNat % 2 = (f.pbits.getLsbD k.val).toNat := by
      rw [value7, BitVec.toNat_setWidth_of_le (by decide), BitVec.toNat_ushiftRight,
        Nat.shiftRight_eq_div_pow, ← Nat.toNat_testBit, BitVec.testBit_toNat]
    rw [Spec.rowField7, fieldWidth7] at h
    rw [Spec.rowField7, fieldWidth7, and_mask_eq_ofNat]
    split_ifs at h ⊢
    · rw [Nat.pow_one, hplaced, BitVec.toNat_ofNat, Nat.mod_eq_of_lt (by omega)]
    · rw [Nat.pow_zero, Nat.mod_one]
      exact (Nat.lt_one_iff.mp h).symm

/-- The P-bits fit their count when each bit fits its field: one bit where the mode stores it, else none. -/
theorem pbits_lt_iff (pbits : BitVec 6) {np : Nat} :
    pbits.toNat < 2 ^ np ↔
      ∀ k : Fin 6, (pbits.getLsbD k.val).toNat < 2 ^ (if k.val < np then 1 else 0) := by
  constructor
  · intro h k
    split_ifs with hk
    · exact Bool.toNat_lt _
    · have hbit := Nat.testBit_lt_two_pow (h.trans_le (Nat.pow_le_pow_right (by decide) (Nat.not_lt.mp hk)))
      rw [BitVec.testBit_toNat] at hbit
      rw [hbit]
      exact Nat.zero_lt_one
  · intro h
    refine Nat.lt_pow_two_of_testBit _ fun k hk => ?_
    rw [BitVec.testBit_toNat]
    by_cases hk6 : k < 6
    · simpa [Nat.not_lt.mpr hk] using h ⟨k, hk6⟩
    · exact BitVec.getLsbD_of_ge _ _ (Nat.not_lt.mp hk6)

/-- The second array of well-formed operands: it fits its fields, or is zero where the mode has none. -/
def SecondFits7 (m : Mode7) (idx2 : IdxFile) : Prop :=
  (∀ ib2, (refDesc7 m).ib2 = some ib2 → (indexArray72 (refLayout7 m) ib2).fits refConfig idx2 = true) ∧
  ((refDesc7 m).ib2 = none → idx2 = Vector.replicate 16 0#4)

/-- Well formed: every field fits its width, and every index its own. -/
theorem wf7_iff {m : Mode7} {f : Fields7} : wf7 refConfig m f = true ↔
    (∀ x, Spec.rowField7 f x < 2 ^ fieldWidth7 m x) ∧
    (indexArray7 (refDesc7 m) (refLayout7 m) f.part).fits refConfig f.idx = true ∧
    SecondFits7 m f.idx2 := by
  have hfields : (∀ x, Spec.rowField7 f x < 2 ^ fieldWidth7 m x) ↔
      compsFit (compWidth7 (refDesc7 m)) f.raw = true ∧ f.part.toNat < 2 ^ (refDesc7 m).pb ∧
      f.rot.toNat < 2 ^ (refDesc7 m).rb ∧ f.idxm.toNat < 2 ^ (refDesc7 m).isb ∧
      f.pbits.toNat < 2 ^ (refDesc7 m).np := by
    rw [pbits_lt_iff f.pbits, compsFit, decide_eq_true_eq]
    refine ⟨fun h => ⟨fun e c => h (.comp e c), h .part, h .rot, h .idxm, fun k => h (.pbit k)⟩, ?_⟩
    rintro ⟨hcomp, hpart, hrot, hidxm, hpbit⟩ x
    cases x with
    | part => exact hpart
    | rot => exact hrot
    | idxm => exact hidxm
    | comp e c => exact hcomp e c
    | pbit k => exact hpbit k
  have hsecond : (match (refDesc7 m).ib2 with
      | some ib2 => (indexArray72 (refLayout7 m) ib2).fits refConfig f.idx2
      | none => f.idx2 == Vector.replicate 16 0#4) = true ↔ SecondFits7 m f.idx2 := by
    unfold SecondFits7
    cases (refDesc7 m).ib2 <;> simp
  rw [hfields, ← hsecond]
  simp only [wf7, Bool.and_eq_true, decide_eq_true_eq, and_assoc]
  rfl

/-- The fields of every block fit their widths (R303). -/
theorem wf7_fields7 (m : Mode7) (b : Block) : wf7 refConfig m (fields7 refConfig m b) = true := by
  refine wf7_iff.mpr ⟨fun x => ?_, IndexArray.fits_read .., fun ib2 hib2 => ?_, fun hnone => ?_⟩
  · rw [rowField7_fields7]
    exact readField7_lt m b x
  · rw [fields7_idx2_of_some hib2]
    exact IndexArray.fits_read ..
  · exact fields7_idx2_of_none hnone b

/-- What is read for a field of an encoded block is what was placed for it; a field that the mode does not
have is placed with width 0 and read as 0 (R102, R350). -/
theorem readField7_encodeBlock7 (m : Mode7) (f : Fields7) (x : Field7) :
    readField7 (refLayout7 m) (encodeBlock7 refConfig m f) x = value7 f x &&& mask 64 (fieldWidth7 m x) := by
  cases hx : (refLayout7 m).fields.lookup x with
  | none =>
    have hwidth : fieldWidth7 m x = 0 := by rw [← lookup_fields7, hx]; rfl
    rw [readField7_eq_zero _ hx, hwidth]
    exact (BitVec.and_zero).symm
  | some sp =>
    have hmem : (x, sp) ∈ (refLayout7 m).fields := by
      obtain ⟨l₁, l₂, hl, -⟩ := List.lookup_eq_some_iff.mp hx
      simp [hl]
    rw [readField7_eq_memRead _ hx, ← width_of_lookup7 hx]
    exact memRead_encodeBlock7_field m f (x, sp) hmem

theorem fields7_ext {f f' : Fields7} (hfield : ∀ x, Spec.rowField7 f x = Spec.rowField7 f' x)
    (hidx : f.idx = f'.idx) (hidx2 : f.idx2 = f'.idx2) : f = f' := by
  obtain ⟨raw, part, rot, idxm, pbits, idx, idx2⟩ := f
  obtain ⟨raw', part', rot', idxm', pbits', idx', idx2'⟩ := f'
  obtain rfl : raw = raw' := ep_ext fun e c => BitVec.eq_of_toNat_eq (hfield (.comp e c))
  obtain rfl : part = part' := BitVec.eq_of_toNat_eq (hfield .part)
  obtain rfl : rot = rot' := BitVec.eq_of_toNat_eq (hfield .rot)
  obtain rfl : idxm = idxm' := BitVec.eq_of_toNat_eq (hfield .idxm)
  obtain rfl : pbits = pbits' := BitVec.eq_of_getLsbD_eq fun k hk => by
    have hbit : (pbits.getLsbD k).toNat = (pbits'.getLsbD k).toNat := hfield (.pbit ⟨k, hk⟩)
    rw [Bool.eq_iff_iff, ← Bool.toNat_eq_one, hbit, Bool.toNat_eq_one]
  obtain rfl : idx = idx' := hidx
  obtain rfl : idx2 = idx2' := hidx2
  rfl

/-- Decoding the block of well-formed operands gives them back (R303). -/
theorem fields7_encodeBlock7 {m : Mode7} {f : Fields7} (hf : wf7 refConfig m f = true) :
    fields7 refConfig m (encodeBlock7 refConfig m f) = f := by
  obtain ⟨hfits, hidx, hsecond, hnone⟩ := wf7_iff.mp hf
  have hfield : ∀ x, Spec.rowField7 (fields7 refConfig m (encodeBlock7 refConfig m f)) x =
      Spec.rowField7 f x := fun x => by
    rw [rowField7_fields7, readField7_encodeBlock7, toNat_value7_and_mask (hfits x)]
  have hpart : (fields7 refConfig m (encodeBlock7 refConfig m f)).part = f.part :=
    BitVec.eq_of_toNat_eq (hfield .part)
  refine fields7_ext hfield ?_ ?_
  · show (indexArray7 (refDesc7 m) (refLayout7 m)
      (fields7 refConfig m (encodeBlock7 refConfig m f)).part).read refConfig
      (encodeBlock7 refConfig m f) = f.idx
    rw [hpart]
    exact IndexArray.read_eq hidx (memRead_encodeBlock7_index m f)
  · cases hib2 : (refDesc7 m).ib2 with
    | none => rw [fields7_idx2_of_none hib2, hnone hib2]
    | some ib2 =>
      rw [fields7_idx2_of_some hib2]
      exact IndexArray.read_eq (hsecond ib2 hib2) (memRead_encodeBlock7_index2 m f ib2 hib2)

/-- The block of the fields of a block that has a mode is the block (R303). -/
theorem encodeBlock7_fields7 {m : Mode7} {b : Block} (hm : modeOf7 b = some m) :
    encodeBlock7 refConfig m (fields7 refConfig m b) = b := by
  obtain ⟨hone, hzero⟩ := modeOf7_eq_some_iff.mp hm
  obtain ⟨hone', hzero'⟩ := encodeBlock7_selector m (fields7 refConfig m b)
  refine block7_ext m (fields7 refConfig m b).part _ _ (fun k hk => ?_) (fun x hx => ?_) (fun i => ?_)
    fun ib2 hib2 i => ?_
  · rcases Nat.eq_or_lt_of_le hk with rfl | hlt
    · rw [hone, hone']
    · rw [hzero k hlt, hzero' k hlt]
  · have hlookup := fields7_lookup m x hx
    have hlt : Spec.rowField7 (fields7 refConfig m b) x.1 < 2 ^ fieldWidth7 m x.1 :=
      (wf7_iff.mp (wf7_fields7 m b)).1 x.1
    apply BitVec.eq_of_toNat_eq
    rw [memRead_encodeBlock7_field m _ x hx, width_of_lookup7 hlookup, toNat_value7_and_mask hlt,
      rowField7_fields7, readField7_eq_memRead b hlookup, width_of_lookup7 hlookup]
  · refine (memRead_encodeBlock7_index m _ i).trans ?_
    exact IndexArray.getElem_read_and_mask (desc7_bounds m).2.1 b i
  · refine (memRead_encodeBlock7_index2 m _ ib2 hib2 i).trans ?_
    rw [fields7_idx2_of_some hib2]
    exact IndexArray.getElem_read_and_mask (ib2_bounds hib2).2 b i

/-! ## Blocks of no mode (R208, R302) -/

theorem toNat_extractLsb'_eq_field (b : Block) (pos width : Nat) :
    (b.extractLsb' pos width).toNat = Spec.field b pos width := by
  rw [BitVec.extractLsb'_toNat, Nat.shiftRight_eq_div_pow, Spec.field]

theorem wellFormed_blk6Unknown_iff {sel : BitVec 5} {rest : BitVec 123} :
    WellFormed (.blk6Unknown sel rest) = true ↔ sel.toNat ∈ [19, 23, 27, 31] := by
  have hsel : ∀ sel : BitVec 5, (sel == 19#5 || sel == 23#5 || sel == 27#5 || sel == 31#5) = true ↔
      sel.toNat ∈ [19, 23, 27, 31] := by decide
  exact hsel sel

/-- The Unknown row's block gives its two operands back (R208). -/
theorem decodeBlock6_unknown {sel : BitVec 5} {rest : BitVec 123}
    (hwf : WellFormed (.blk6Unknown sel rest) = true) :
    decodeBlock6 refConfig (rest ++ sel) = .blk6Unknown sel rest := by
  have hmode : modeOf6 (rest ++ sel) = none := by
    rw [modeOf6_eq_none_iff, ← toNat_extractLsb'_eq_field, BitVec.extractLsb'_append_eq_right]
    exact wellFormed_blk6Unknown_iff.mp hwf
  rw [decodeBlock6, hmode]
  exact congrArg₂ Instr.blk6Unknown BitVec.extractLsb'_append_eq_right BitVec.extractLsb'_append_eq_left

/-- A block of no BC6H mode is the Unknown row's block of its two parts. -/
theorem append_of_modeOf6_none {b : Block} (h : modeOf6 b = none) :
    (b.extractLsb' 5 123 ++ b.extractLsb' 0 5 : Block) = b ∧
    WellFormed (.blk6Unknown (b.extractLsb' 0 5) (b.extractLsb' 5 123)) = true := by
  rw [wellFormed_blk6Unknown_iff, toNat_extractLsb'_eq_field]
  exact ⟨(BitVec.extractLsb'_append_extractLsb'_eq_extractLsb' rfl).trans BitVec.extractLsb'_eq_self,
    modeOf6_eq_none_iff.mp h⟩

/-- The Reserved row's block gives its operand back (R302). -/
theorem decodeBlock7_reserved (rest : BitVec 120) :
    decodeBlock7 refConfig (rest ++ 0#8) = .blk7Reserved rest := by
  have hmode : modeOf7 (rest ++ 0#8) = none := by
    rw [modeOf7_eq_none_iff, ← toNat_extractLsb'_eq_field, BitVec.extractLsb'_append_eq_right]
    rfl
  rw [decodeBlock7, hmode]
  exact congrArg Instr.blk7Reserved BitVec.extractLsb'_append_eq_left

/-- A Reserved block is the Reserved row's block of its other 120 bits. -/
theorem append_of_modeOf7_none {b : Block} (h : modeOf7 b = none) :
    (b.extractLsb' 8 120 ++ 0#8 : Block) = b := by
  have hlow : b.extractLsb' 0 8 = 0#8 := by
    apply BitVec.eq_of_toNat_eq
    rw [toNat_extractLsb'_eq_field]
    exact modeOf7_eq_none_iff.mp h
  rw [← hlow]
  exact (BitVec.extractLsb'_append_extractLsb'_eq_extractLsb' rfl).trans BitVec.extractLsb'_eq_self

/-! ## The round trips (O11, O12) -/

theorem encode_blk6 (g : Config) (m : Mode6) (f : Fields6) :
    encode g (.blk6 m f) = .block6 (encodeBlock6 g m f) := by cases m <;> rfl

theorem encode_blk7 (g : Config) (m : Mode7) (f : Fields7) :
    encode g (.blk7 m f) = .block7 (encodeBlock7 g m f) := by cases m <;> rfl

theorem wellFormed_blk6 (m : Mode6) (f : Fields6) : WellFormed (.blk6 m f) = wf6 refConfig m f := by
  cases m <;> rfl

theorem wellFormed_blk7 (m : Mode7) (f : Fields7) : WellFormed (.blk7 m f) = wf7 refConfig m f := by
  cases m <;> rfl

/-- A command of the OP map decodes from its encoding (R93). -/
theorem decode_encode_of_mem_commandTable {n : Nat} {i : Instr} (h : (n, i) ∈ Spec.commandTable) :
    decode refConfig (encode refConfig i) = .ok i := by
  obtain ⟨hdecode, hencode⟩ := commandTable_rows _ h
  rw [hencode]
  exact hdecode

theorem bc6hPack_mem_commandTable (m : Mode6) :
    (8 + 16 * (refDesc6 m).code, .bc6hPack m) ∈ Spec.commandTable := by
  cases m <;> decide

theorem bc7Pack_mem_commandTable (m : Mode7) :
    (11 + 16 * (refDesc7 m).number, .bc7Pack m) ∈ Spec.commandTable := by
  cases m <;> decide

/-- Settles O11, by the shape of the instruction: a command is a row of the OP map, and a block row's block
has the selector of its mode and reads back field by field. -/
theorem decodeOfEncode : Obligations.DecodeOfEncode := by
  intro i hwf
  induction i using Machine.instr_cases with
  | nop => rfl
  | bfExtract => rfl
  | bfStore => rfl
  | ptSubset => rfl
  | ptIdxWidth => rfl
  | ptIdxOffset => rfl
  | bc6hModeOf => rfl
  | bc6hUnpackU => rfl
  | bc6hUnpackS => rfl
  | bc7ModeOf => rfl
  | bc7Unpack => rfl
  | bc6hPack m => exact decode_encode_of_mem_commandTable (bc6hPack_mem_commandTable m)
  | bc7Pack m => exact decode_encode_of_mem_commandTable (bc7Pack_mem_commandTable m)
  | blk6 m f =>
    rw [wellFormed_blk6] at hwf
    rw [encode_blk6, decode, decodeBlock6, modeOf6_encodeBlock6]
    exact congrArg (Except.ok ∘ Instr.blk6 m) (fields6_encodeBlock6 hwf)
  | blk6Unknown sel rest => exact congrArg Except.ok (decodeBlock6_unknown hwf)
  | blk7 m f =>
    rw [wellFormed_blk7] at hwf
    rw [encode_blk7, decode, decodeBlock7, modeOf7_encodeBlock7]
    exact congrArg (Except.ok ∘ Instr.blk7 m) (fields7_encodeBlock7 hwf)
  | blk7Reserved rest => exact congrArg Except.ok (decodeBlock7_reserved rest)

theorem encode_decodeBlock6 (b : Block) : encode refConfig (decodeBlock6 refConfig b) = .block6 b ∧
    WellFormed (decodeBlock6 refConfig b) = true := by
  unfold decodeBlock6
  split
  case h_1 m hm =>
    rw [encode_blk6, wellFormed_blk6, encodeBlock6_fields6 hm]
    exact ⟨rfl, wf6_fields6 m b⟩
  case h_2 hm =>
    obtain ⟨hjoin, hwf⟩ := append_of_modeOf6_none hm
    exact ⟨congrArg Code.block6 hjoin, hwf⟩

theorem encode_decodeBlock7 (b : Block) : encode refConfig (decodeBlock7 refConfig b) = .block7 b ∧
    WellFormed (decodeBlock7 refConfig b) = true := by
  unfold decodeBlock7
  split
  case h_1 m hm =>
    rw [encode_blk7, wellFormed_blk7, encodeBlock7_fields7 hm]
    exact ⟨rfl, wf7_fields7 m b⟩
  case h_2 hm => exact ⟨congrArg Code.block7 (append_of_modeOf7_none hm), rfl⟩

/-- Settles O12, by the kind of code: a legal word is a row of the OP map, and every block is the encoding of
what it decodes to. -/
theorem encodeOfDecode : Obligations.EncodeOfDecode := by
  intro c i h
  cases c with
  | cmd w =>
    obtain ⟨-, hencode⟩ := commandTable_rows _ (mem_commandTable_of_decodeCmd h)
    rw [BitVec.ofNat_toNat, BitVec.setWidth_eq] at hencode
    exact ⟨hencode, decodeCmd_wellFormed h⟩
  | block6 b => cases h; exact encode_decodeBlock6 b
  | block7 b => cases h; exact encode_decodeBlock7 b

end Sys2Proof

/-! PROOFS. The block rows of BC6H (spec/43_bc6h_modes.md R194 to R208): the pipeline of the meanings
(spec/44_bc6h_decode.md) against the statements' formulas, step by step. -/

namespace Sys2Proof.Machine

/-! ## Step 3: the endpoints (R225, R226, R228) -/

/-- Delta decoding in `EPB`-bit words: the residue of the integer sum is the sum without its carry. -/
theorem ofNat_residue_add_sext (epb db : Nat) (base delta : Half) :
    BitVec.ofNat 16 (residue epb (base.toNat + sext db delta.toNat)) =
      (base.setWidth epb + (delta.setWidth db).signExtend epb).setWidth 16 := by
  have hbase : base.setWidth epb = BitVec.ofInt epb base.toNat := by
    rw [BitVec.ofInt_natCast, BitVec.ofNat_toNat]
  have hdelta : (delta.setWidth db).signExtend epb = BitVec.ofInt epb (sext db delta.toNat) := by
    rw [sext_eq_toInt, BitVec.ofNat_toNat, BitVec.signExtend]
  rw [hbase, hdelta, ← BitVec.ofInt_add, ← BitVec.ofNat_toNat, BitVec.toNat_ofInt, residue]

theorem endpoint6_eq_spec (m : Mode6) (raw : EpFile) (e : Fin 6) (c : Fin 4) :
    endpoint6 (refDesc6 m) raw e c = Spec.endpoint6 m raw e c := by
  simp only [endpoint6, Spec.endpoint6, ofNat_residue_add_sext]
  by_cases habsent : c = 3 ∨ 2 * (refDesc6 m).ns ≤ e.val
  · rw [if_pos habsent, if_pos habsent.symm]
  · rw [if_neg habsent, if_neg (mt Or.symm habsent)]
    by_cases hstored : e = 0 ∨ (refDesc6 m).transformed = false
    · rw [if_pos hstored, if_neg]
      rintro ⟨htransformed, he⟩
      simp_all
    · rw [if_neg hstored, if_pos]
      simpa [and_comm] using hstored

/-! ## Steps 4 and 5: unquantization (R227, R231 to R233) -/

theorem unqUnsigned_natCast (epb n : Nat) : unqUnsigned epb n = Spec.unquantizeU epb n := by
  have htop : ((n : Int) = 2 ^ epb - 1) ↔ n = 2 ^ epb - 1 := by
    have := Nat.two_pow_pos epb
    have hcast : ((2 ^ epb : Nat) : Int) = 2 ^ epb := Nat.cast_pow 2 epb
    omega
  simp only [unqUnsigned, Spec.unquantizeU, htop, Nat.cast_eq_zero, Nat.shiftLeft_eq,
    Nat.shiftRight_eq_div_pow]
  push_cast
  rfl

theorem unqMagnitude_natCast (epb n : Nat) : unqMagnitude epb n =
    ((if n = 0 then 0 else if 2 ^ (epb - 1) - 1 ≤ n then 0x7FFF
      else ((n <<< 15) + 0x4000) >>> (epb - 1) : Nat) : Int) := by
  have htop : (2 ^ (epb - 1) - 1 : Int) ≤ n ↔ 2 ^ (epb - 1) - 1 ≤ n := by
    have := Nat.two_pow_pos (epb - 1)
    have hcast : ((2 ^ (epb - 1) : Nat) : Int) = 2 ^ (epb - 1) := Nat.cast_pow 2 _
    omega
  simp only [unqMagnitude, htop, Nat.cast_eq_zero, Nat.shiftLeft_eq, Nat.shiftRight_eq_div_pow]
  push_cast
  rfl

/-- A magnitude with the sign of the value: the two branches of R233 at once. -/
theorem unqSigned_eq_sign_mul (epb : Nat) (v : Int) : unqSigned epb v =
    if 16 ≤ epb then v else v.sign * unqMagnitude epb v.natAbs := by
  rw [unqSigned]
  congr 1
  rcases Int.lt_trichotomy v 0 with hneg | rfl | hpos
  · rw [if_pos hneg, Int.sign_eq_neg_one_of_neg hneg, Int.ofNat_natAbs_of_nonpos hneg.le, neg_one_mul]
  · simp [unqMagnitude]
  · rw [if_neg (by omega), Int.sign_eq_one_of_pos hpos, Int.natAbs_of_nonneg hpos.le, one_mul]

theorem unquantized6_eq_spec (signed : Bool) (m : Mode6) (ep : EpFile) (e : Fin 6) (c : Fin 4) :
    unquantized6 refConfig signed (refDesc6 m) ep e c =
      Spec.unquantize signed (refDesc6 m).epb (epAt ep e c).toNat := by
  cases signed with
  | false => exact unqUnsigned_natCast _ _
  | true =>
    show unqSigned _ (sext _ _) = Spec.unquantizeS _ _
    rw [unqSigned_eq_sign_mul, unqMagnitude_natCast, sext_eq_toInt]
    rfl

/-! ## Steps 6 and 7: interpolation and the half pattern (R234, R236) -/

/-- A value that fits the register is not cut off by it. -/
theorem toNat_ofInt_of_lt {w : Nat} {x : Int} (h0 : 0 ≤ x) (h : x < 2 ^ w) :
    (BitVec.ofInt w x).toNat = x.toNat := by
  rw [BitVec.toNat_ofInt, Nat.cast_pow, Nat.cast_ofNat, Int.emod_eq_of_lt h0 h]

theorem toNat_refFinish {signed : Bool} {v : Int} (hv : v ∈ UnquantizedRange signed) :
    (refFinish signed v).toNat = Spec.halfOf signed v := by
  have hshift (x : Int) (n : Nat) : x >>> (n : Int) = x / 2 ^ n := by
    rw [Int.shiftRight_natCast_right, Int.shiftRight_eq_div_pow, Nat.cast_pow, Nat.cast_ofNat]
  have hfive (x : Int) : x >>> (5 : Int) = x / 32 := hshift x 5
  have hsix (x : Int) : x >>> (6 : Int) = x / 64 := hshift x 6
  simp only [refFinish, Spec.halfOf, hfive, hsix]
  cases signed with
  | false =>
    obtain ⟨hlow, hhigh⟩ := hv
    exact toNat_ofInt_of_lt (by omega) (by omega)
  | true =>
    obtain ⟨hlow, hhigh⟩ := hv
    simp only [if_true, Bool.true_eq_false, if_false]
    split_ifs with hneg
    · exact toNat_ofInt_of_lt (by omega) (by omega)
    · have hmag := toNat_ofInt_of_lt (w := 16) (x := -v * 31 / 32) (by omega) (by omega)
      have hor := Nat.two_pow_add_eq_or_of_lt (i := 15) (b := (-v * 31 / 32).toNat) (by omega) 1
      rw [BitVec.toNat_or, hmag]
      exact hor.symm

/-- The pixel's subset, read in the printed rows (R158). -/
theorem subsetAt_desc6 (m : Mode6) (p : BitVec 5) (i : Pixel) :
    (subsetAt refConfig .bc6h (refDesc6 m).ns (p.setWidth 6) i).val =
      Spec.subset (refDesc6 m).ns (p.setWidth 6).toNat i := by
  have hrow : (p.setWidth 6).toNat ≤ 31 := by rw [BitVec.toNat_setWidth]; omega
  have hns : (refDesc6 m).ns = 1 ∨ (refDesc6 m).ns = 2 := by cases m <;> decide
  rcases hns with hns | hns <;> rw [hns]
  · rfl
  · exact subsetAt_bc6h_two _ hrow i

theorem firstEndpoint_eq_ofNat (sub : Fin 3) : firstEndpoint sub = Fin.ofNat 6 (2 * sub.val) := by
  revert sub; decide

theorem secondEndpoint_eq_ofNat (sub : Fin 3) : secondEndpoint sub = Fin.ofNat 6 (2 * sub.val + 1) := by
  revert sub; decide

/-- A channel of a pixel, by the statements' formulas over the state that the unpack leaves (R234, R236). -/
theorem toNat_lane6 {m : Mode6} {f : Fields6} (hf : wf6 refConfig m f = true) (signed : Bool) (s : State)
    (i : Pixel) (c : Fin 4) :
    (lane6 refConfig signed (refDesc6 m) (endpoints6 (refDesc6 m) f.raw) (f.part.setWidth 6) f.idx i
      c).toNat = Spec.lane6 m signed (live6 refConfig m signed f s) i c := by
  obtain ⟨⟨hraw, -⟩, hfits⟩ : (_ ∧ _) ∧ _ := by simpa only [wf6, Bool.and_eq_true] using hf
  have hmem := unquantized6_mem (epAt_endpoints6_lt hraw) signed
  have hnom : (refDesc6 m).nom = 2 ∨ (refDesc6 m).nom = 3 ∨ (refDesc6 m).nom = 4 := by
    cases m <;> decide
  have hidx : f.idx[i].toNat < 2 ^ (refDesc6 m).nom :=
    (of_decide_eq_true hfits i).trans_le (Nat.pow_le_pow_right (by decide) (IndexArray.width_le ..))
  rw [lane6]
  refine (toNat_refFinish ?_).trans ?_
  · cases signed <;> exact interp_mem_Icc (hmem _ c) (hmem _ c) _ _
  · rw [interp_eq_mix, weight_eq_weightOf hnom hidx, unquantized6_eq_spec, unquantized6_eq_spec,
      firstEndpoint_eq_ofNat, secondEndpoint_eq_ofNat, subsetAt_desc6]
    rfl

/-! ## The rows (O27) -/

/-- The unpack of a live block with well-formed fields, in either profile (R222 to R237). -/
theorem unpacked6_live6 {m : Mode6} {f : Fields6} (hf : wf6 refConfig m f = true) (signed : Bool)
    (s : State) : Spec.Unpacked6 m signed f s (live6 refConfig m signed f s) := by
  refine ⟨rfl, fun e c => ?_, fun i => ?_⟩
  · exact (epAt_epFile _ e c).trans (endpoint6_eq_spec m f.raw e c)
  · have htex : (live6 refConfig m signed f s).tex[i] = texel6 refConfig signed (refDesc6 m)
        (endpoints6 (refDesc6 m) f.raw) (f.part.setWidth 6) f.idx i := Vector.getElem_ofFn ..
    have hlane := toNat_lane6 hf signed s i
    rw [htex, texel6]
    refine ⟨fun c hc => ?_, lane_texel_three ..⟩
    match c with
    | 0 => rw [lane_texel_zero, hlane]
    | 1 => rw [lane_texel_one, hlane]
    | 2 => rw [lane_texel_two, hlane]
    | 3 => exact absurd rfl hc

/-- What the sentinel leaves (R238). -/
theorem sentinel6_eq_spec (s : State) : sentinel6 refConfig s = Spec.sentinel s := rfl

/-- Settles O27: a live row is `live6` in the profile of `CMD[SIGNED]`, and the Unknown row the sentinel. -/
theorem bc6hBlockRowsDecode : Obligations.Bc6hBlockRowsDecode :=
  ⟨fun s m f hf => ⟨_, exec_blk6 m f s, unpacked6_live6 hf s.signed s⟩,
    fun s sel rest _ => by rw [exec_blk6Unknown, sentinel6_eq_spec]⟩

end Sys2Proof.Machine

/-! PROOFS. BC6H decode (spec/44_bc6h_decode.md): the mode selector (R221), BC6H.MODEOF (R220), the two unpack
commands (R222 to R238), and the half patterns they can leave (R239). -/

namespace Sys2Proof

/-! ## The mode selector (O6) -/

/-- Settles O6: bit 1 picks the selector's width, and each live code is one mode's. -/
theorem bc6hModeSelector : Obligations.Bc6hModeSelector := by
  refine fun b => ⟨fun m => ?_, modeOf6_eq_none_iff⟩
  obtain ⟨hbit, -, -⟩ := field_selector6 b
  rw [modeOf6_eq, mode6OfCode_eq_some_iff]
  split_ifs with hzero
  · simp [hzero]
  · simp [show Spec.field b 1 1 = 1 by omega]

end Sys2Proof

namespace Sys2Proof.Machine

/-! ## BC6H.MODEOF (O24) -/

theorem exec_bc6hModeOf_of_mode {s : State} {m : Mode6} (h : modeOf6 s.blk = some m) :
    exec .bc6hModeOf s = .next (s.complete false (BitVec.ofNat 5 (refConfig.desc6 m).code)
      (nsField (refConfig.desc6 m).ns)) := by
  simp only [exec, execBc6hModeOf, h]

theorem exec_bc6hModeOf_of_unknown {s : State} (h : modeOf6 s.blk = none) :
    exec .bc6hModeOf s = .next (s.complete false modeUnknown 0#2) := by
  simp only [exec, execBc6hModeOf, h]

/-- Settles O24: both outcomes complete, and completing writes `STATUS` alone. -/
theorem bc6hModeOfReports : Obligations.Bc6hModeOfReports :=
  fun _ => ⟨fun _ hm => exec_bc6hModeOf_of_mode hm, exec_bc6hModeOf_of_unknown⟩

/-! ## The two unpack commands (O25, O26) -/

theorem unpack6_of_unknown {s : State} (h : modeOf6 s.blk = none) (signed : Bool) :
    unpack6 refConfig signed s = sentinel6 refConfig s := by
  rw [unpack6, h]

/-- The fields of a block are well formed, so its unpack is the pipeline of R222 to R237. -/
theorem unpacked6_unpack6 {s : State} {m : Mode6} (hm : modeOf6 s.blk = some m) (signed : Bool) :
    Spec.Unpacked6 m signed (fields6 refConfig m s.blk) s (unpack6 refConfig signed s) := by
  rw [unpack6_of_mode hm]
  exact unpacked6_live6 (wf6_fields6 m s.blk) signed s

/-- Settles O25: each command is `unpack6` in its profile. -/
theorem bc6hUnpackDecodesLiveBlocks : Obligations.Bc6hUnpackDecodesLiveBlocks :=
  fun s _ hm => ⟨⟨_, exec_bc6hUnpackU s, unpacked6_unpack6 hm false⟩,
    ⟨_, exec_bc6hUnpackS s, unpacked6_unpack6 hm true⟩⟩

/-- Settles O26: the four selectors are those of no mode, and the sentinel does not read the profile. -/
theorem bc6hUnknownGivesTheSentinel : Obligations.Bc6hUnknownGivesTheSentinel := by
  intro s hsel
  have hunknown := modeOf6_eq_none_iff.mpr hsel
  rw [exec_bc6hUnpackU, exec_bc6hUnpackS, unpack6_of_unknown hunknown, unpack6_of_unknown hunknown,
    sentinel6_eq_spec]
  exact ⟨rfl, rfl⟩

/-! ## The half pattern of a value (R236) -/

theorem refFinish_unsigned_le {v : Int} (hv : v ∈ UnquantizedRange false) :
    (refFinish false v).toNat ≤ 0x7BFF := by
  obtain ⟨hlow, hhigh⟩ := hv
  rw [refFinish, if_neg Bool.false_ne_true]
  exact toNat_ofInt_le 16 (by omega) (by omega)

theorem toNat_refFinish_neg {v : Int} (hlow : -0x8000 ≤ v) (hneg : v < 0) :
    (refFinish true v).toNat = 0x8000 + (-v * 31 / 32).toNat := by
  have hshift (x : Int) : x >>> (5 : Int) = x / 32 :=
    (Int.shiftRight_natCast_right x 5).trans (Int.shiftRight_eq_div_pow x 5)
  have hrange : v ∈ UnquantizedRange true := ⟨hlow, by omega⟩
  rw [toNat_refFinish hrange, Spec.halfOf, if_neg Bool.true_eq_false.mp, if_neg (Int.not_le.mpr hneg),
    hshift]

/-- The infinity 0xFC00 is the pattern of the least signed value alone (R236, R239). -/
theorem refFinish_signed_cases {v : Int} (hv : v ∈ UnquantizedRange true) :
    (refFinish true v).toNat ≤ 0x7BFF ∨
    (0x8000 ≤ (refFinish true v).toNat ∧ (refFinish true v).toNat ≤ 0xFBFF) ∨
    (v = -0x8000 ∧ refFinish true v = 0xFC00#16) := by
  obtain ⟨hlow, hhigh⟩ := hv
  rcases eq_or_ne v (-0x8000) with rfl | hne
  · exact .inr (.inr ⟨rfl, rfl⟩)
  rcases lt_or_ge v 0 with hneg | hnonneg
  · rw [toNat_refFinish_neg hlow hneg]
    omega
  · rw [refFinish, if_pos rfl, if_pos hnonneg]
    exact .inl (toNat_ofInt_le 16 (by omega) (by omega))

/-! ## The lanes of a live block (R239) -/

/-- Below 16 bits the signed unquantization is symmetric about 0 (R233). -/
theorem unqSigned_mem_of_lt {epb : Nat} (hepb : epb < 16) (v : Int) :
    unqSigned epb v ∈ Set.Icc (-0x7FFF) 0x7FFF := by
  rw [unqSigned, if_neg (Nat.not_le.mpr hepb)]
  split_ifs with hneg
  · obtain ⟨hlow, hhigh⟩ := unqMagnitude_mem epb (x := -v) (by omega)
    exact ⟨by omega, by omega⟩
  · obtain ⟨hlow, hhigh⟩ := unqMagnitude_mem epb (x := v) (by omega)
    exact ⟨by omega, hhigh⟩

/-- Only mode 15 has endpoints of 16 bits (R191). -/
theorem epb_lt_of_ne_m15 {m : Mode6} (hm : m ≠ .m15) : (refDesc6 m).epb < 16 := by
  revert hm
  cases m <;> decide

section Lanes

variable {m : Mode6} {ep : EpFile} (hep : ∀ e c, (epAt ep e c).toNat < 2 ^ (refDesc6 m).epb)
  (part : BitVec 6) (idx : IdxFile) (i : Pixel) (c : Fin 4)
include hep

theorem lane6_unsigned_le : (lane6 refConfig false (refDesc6 m) ep part idx i c).toNat ≤ 0x7BFF := by
  have hmem := unquantized6_mem hep false
  exact refFinish_unsigned_le (interp_mem_Icc (hmem _ c) (hmem _ c) _ _)

/-- Outside mode 15 no endpoint is the least signed value, so no interpolated value is. -/
theorem lane6_signed_cases :
    (lane6 refConfig true (refDesc6 m) ep part idx i c).toNat ≤ 0x7BFF ∨
    (0x8000 ≤ (lane6 refConfig true (refDesc6 m) ep part idx i c).toNat ∧
      (lane6 refConfig true (refDesc6 m) ep part idx i c).toNat ≤ 0xFBFF) ∨
    (m = .m15 ∧ lane6 refConfig true (refDesc6 m) ep part idx i c = 0xFC00#16) := by
  have hmem := unquantized6_mem hep true
  refine (refFinish_signed_cases (interp_mem_Icc (hmem _ c) (hmem _ c) _ _)).imp_right
    (Or.imp_right (And.imp_left fun hleast => ?_))
  by_contra hm
  have hsym := fun e => unqSigned_mem_of_lt (epb_lt_of_ne_m15 hm)
    (profile6 true (refDesc6 m) (epAt ep e c))
  obtain ⟨hlow, -⟩ := interp_mem_Icc (hsym _) (hsym _) _ _
  exact absurd (hlow.trans_eq hleast) (by decide)

end Lanes

/-! ## The lanes after an unpack (O28) -/

theorem lane_texel6 {c : Fin 4} (hc : c ≠ 3) (g : Config) (signed : Bool) (d : Desc6) (ep : EpFile)
    (part : BitVec 6) (idx : IdxFile) (i : Pixel) :
    lane (texel6 g signed d ep part idx i) c = lane6 g signed d ep part idx i c := by
  match c with
  | 0 => exact lane_texel_zero ..
  | 1 => exact lane_texel_one ..
  | 2 => exact lane_texel_two ..
  | 3 => exact absurd rfl hc

/-- A colour lane of the unpack of a live block is a lane of the pipeline over endpoints that fit `EPB`
bits (R226, R237). -/
theorem lane_unpack6_of_mode {s : State} {m : Mode6} (hm : modeOf6 s.blk = some m) {c : Fin 4}
    (hc : c ≠ 3) : ∃ ep part idx, (∀ e c, (epAt ep e c).toNat < 2 ^ (refDesc6 m).epb) ∧
      ∀ (signed : Bool) (i : Pixel), lane (unpack6 refConfig signed s).tex[i] c =
        lane6 refConfig signed (refDesc6 m) ep part idx i c := by
  obtain ⟨⟨hraw, -⟩, -⟩ : (_ ∧ _) ∧ _ := by simpa only [wf6, Bool.and_eq_true] using wf6_fields6 m s.blk
  refine ⟨_, (fields6 refConfig m s.blk).part.setWidth 6, (fields6 refConfig m s.blk).idx,
    epAt_endpoints6_lt hraw, fun signed i => ?_⟩
  rw [unpack6_of_mode hm, ← lane_texel6 hc]
  exact congrArg (lane · c) (Vector.getElem_ofFn ..)

/-- Every lane of the magenta texel (R238) is a finite positive half. -/
theorem lane_unpack6_of_unknown_le {s : State} (h : modeOf6 s.blk = none) (signed : Bool) (i : Pixel)
    (c : Fin 4) : (lane (unpack6 refConfig signed s).tex[i] c).toNat ≤ 0x7BFF := by
  have hmagenta : ∀ c, (lane 0x00003C0000003C00#64 c).toNat ≤ 0x7BFF := by decide
  have htex : (Spec.sentinel s).tex[i] = 0x00003C0000003C00#64 := Vector.getElem_replicate ..
  rw [unpack6_of_unknown h, sentinel6_eq_spec, htex]
  exact hmagenta c

/-- Settles O28, by whether the block is live: a live one's lanes are the pipeline's, and the others' are
magenta's. -/
theorem bc6hLaneRanges : Obligations.Bc6hLaneRanges := by
  intro s t i c hc
  rw [exec_bc6hUnpackU, exec_bc6hUnpackS]
  cases hmode : modeOf6 s.blk with
  | none =>
    have hle := lane_unpack6_of_unknown_le hmode (i := i) (c := c)
    refine ⟨fun ht => ?_, fun ht => ?_⟩ <;> cases ht
    · exact hle false
    · exact .inl (hle true)
  | some m =>
    obtain ⟨ep, part, idx, hep, hlane⟩ := lane_unpack6_of_mode hmode hc
    refine ⟨fun ht => ?_, fun ht => ?_⟩ <;> cases ht <;> rw [hlane]
    · exact lane6_unsigned_le hep part idx i c
    · rw [Option.some_inj]
      exact lane6_signed_cases hep part idx i c

end Sys2Proof.Machine

/-! PROOFS. BC6H pack (spec/45_bc6h_pack.md): the delta arithmetic of R261 and its inverse, the contract of
R260 against the model's check, what a pack places (R260 to R262) or refuses (R402), and the two round
trips with the unpacks (R263). -/

namespace Sys2Proof

/-! ## Residues and signed values of `n` bits (R9) -/

theorem natCast_residue (n : Nat) (x : Int) : (residue n x : Int) = x % (2 ^ n : Nat) := by
  rw [residue, Int.toNat_of_nonneg (Int.emod_nonneg x (by positivity))]

theorem residue_eq_residue_iff {n : Nat} {x y : Int} :
    residue n x = residue n y ↔ x % (2 ^ n : Nat) = y % (2 ^ n : Nat) := by
  rw [← natCast_residue, ← natCast_residue, Nat.cast_inj]

theorem residue_natCast_of_lt {n k : Nat} (h : k < 2 ^ n) : residue n k = k := by
  rw [← Nat.cast_inj (R := Int), natCast_residue, ← Int.natCast_emod, Nat.mod_eq_of_lt h]

theorem sext_eq_bmod (n v : Nat) : sext n v = (v : Int).bmod (2 ^ n) :=
  (sext_eq_toInt n v).trans (BitVec.toInt_ofNat' ..)

/-- Sign-extending the residue of an integer is its balanced residue. -/
theorem sext_residue (n : Nat) (x : Int) : sext n (residue n x) = x.bmod (2 ^ n) := by
  rw [sext_eq_bmod, natCast_residue, Int.emod_bmod]

theorem emod_two_pow_emod {n w : Nat} (h : n ≤ w) (x : Int) :
    x % (2 ^ w : Nat) % (2 ^ n : Nat) = x % (2 ^ n : Nat) :=
  Int.emod_emod_of_dvd x (Int.natCast_dvd_natCast.mpr (Nat.pow_dvd_pow 2 h))

/-- A balanced residue has the residues of its integer, of as many bits or fewer. -/
theorem residue_bmod {n w : Nat} (h : n ≤ w) (x : Int) : residue n (x.bmod (2 ^ w)) = residue n x := by
  rw [residue_eq_residue_iff, ← emod_two_pow_emod h, Int.bmod_emod, emod_two_pow_emod h]

/-- The residue of `n` bits in a wider word holds the low `n` bits of the integer. -/
theorem getLsbD_ofNat_residue {n w : Nat} (h : n ≤ w) (x : Int) {j : Nat} (hj : j < n) :
    (BitVec.ofNat w (residue n x)).getLsbD j = (BitVec.ofInt w x).getLsbD j := by
  have hlow : residue n x = (BitVec.ofInt w x).toNat % 2 ^ n := by
    rw [BitVec.toNat_ofInt, ← residue, ← Nat.cast_inj (R := Int), Int.natCast_emod, natCast_residue,
      natCast_residue, emod_two_pow_emod h]
  rw [BitVec.getLsbD_ofNat, hlow, Nat.testBit_mod_two_pow, BitVec.testBit_toNat]
  simp [hj, hj.trans_le h]

/-! ## The components of a mode (R191, R224) -/

/-- A mode has no component in lane A and none of the endpoints beyond its subsets. -/
abbrev Desc6.Absent (d : Desc6) (e : Fin 6) (c : Fin 4) : Prop := c = 3 ∨ 2 * d.ns ≤ e.val

/-- Endpoint `e` is stored as it is, not as a delta. -/
abbrev Desc6.Plain (d : Desc6) (e : Fin 6) : Prop := e = 0 ∨ d.transformed = false

theorem Desc6.not_plain_iff {d : Desc6} {e : Fin 6} : ¬d.Plain e ↔ d.transformed = true ∧ e ≠ 0 := by
  rw [not_or, Bool.not_eq_false, and_comm]

/-- A mode that has a channel has it in endpoint 0. -/
theorem Desc6.not_absent_zero {d : Desc6} {e : Fin 6} {c : Fin 4} (h : ¬d.Absent e c) : ¬d.Absent 0 c := by
  rw [not_or, not_le] at h ⊢
  exact ⟨h.1, by rw [Fin.val_zero]; omega⟩

theorem compWidth6_of_ne_zero {d : Desc6} {e : Fin 6} {c : Fin 4} (h : ¬d.Absent e c) (he : e ≠ 0) :
    compWidth6 d e c = d.db c := by
  rw [compWidth6, if_neg h, if_neg he]

/-- The clauses of well-formedness, one by one (R209 (b)). -/
theorem clauses_of_wf6 {m : Mode6} {f : Fields6} (hf : wf6 refConfig m f = true) :
    compsFit (compWidth6 (refDesc6 m)) f.raw = true ∧ ((refDesc6 m).ns = 2 ∨ f.part = 0#5) ∧
    (indexArray6 (refDesc6 m) (f.part.setWidth 6)).fits refConfig f.idx = true := by
  simp only [wf6, Bool.and_eq_true, Bool.or_eq_true, beq_iff_eq] at hf
  obtain ⟨⟨hraw, hpart⟩, hidx⟩ := hf
  exact ⟨hraw, hpart, hidx⟩

end Sys2Proof

namespace Sys2Proof.Machine

/-! ## The signed range of `n` bits (R261) -/

theorem inSignedRange_iff {n : Nat} {x : Int} :
    inSignedRange n x = true ↔ -(2 ^ (n - 1) : Int) ≤ x ∧ x ≤ 2 ^ (n - 1) - 1 :=
  decide_eq_true_iff

/-- An integer of the signed range of `n` bits is its own balanced residue. -/
theorem bmod_of_inSignedRange {n : Nat} (hn : 1 ≤ n) {x : Int} (h : inSignedRange n x = true) :
    x.bmod (2 ^ n) = x := by
  obtain ⟨hlow, hhigh⟩ := inSignedRange_iff.mp h
  obtain ⟨k, rfl⟩ : ∃ k, n = k + 1 := ⟨n - 1, by omega⟩
  rw [Nat.add_sub_cancel] at hlow hhigh
  have hcast : ((2 ^ k : Nat) : Int) = 2 ^ k := by push_cast; rfl
  rw [Nat.pow_succ]
  exact Int.bmod_eq_of_le (by omega) (by omega)

theorem inSignedRange_sext {n w : Nat} (hn : 1 ≤ n) (h : n ≤ w) (v : Nat) :
    inSignedRange w (sext n v) = true := by
  have hpow : (2 : Int) ^ (n - 1) ≤ 2 ^ (w - 1) := pow_le_pow_right₀ (by decide) (by omega)
  have hlow := BitVec.le_toInt (BitVec.ofNat n v)
  have hhigh := BitVec.toInt_lt (x := BitVec.ofNat n v)
  rw [inSignedRange_iff, sext_eq_toInt]
  omega

/-! ## The delta of R261 -/

theorem delta6_eq_bmod (d : Desc6) (e0 ek : Half) :
    delta6 d e0 ek = ((ek.toNat : Int) - e0.toNat).bmod (2 ^ d.epb) := sext_residue ..

/-- The model's delta is the statements' difference of `EPB`-bit words. -/
theorem delta6_eq_spec (m : Mode6) (ep : EpFile) (k : Fin 6) (c : Fin 4) :
    delta6 (refDesc6 m) (epAt ep 0 c) (epAt ep k c) = Spec.delta6 m ep k c := by
  rw [delta6_eq_bmod, Spec.delta6, BitVec.toInt_sub, BitVec.toInt_setWidth, BitVec.toInt_setWidth,
    Int.sub_bmod_bmod, Int.bmod_sub_bmod]

/-- Adding the delta to endpoint 0 modulo `2^EPB` gives the endpoint back (R225, R261). -/
theorem residue_add_delta6 (d : Desc6) (e0 : Half) {ek : Half} (hek : ek.toNat < 2 ^ d.epb) :
    residue d.epb (e0.toNat + delta6 d e0 ek) = ek.toNat := by
  rw [← residue_natCast_of_lt hek, residue_eq_residue_iff, delta6_eq_bmod, Int.add_emod, Int.bmod_emod,
    ← Int.add_emod, add_sub_cancel]

/-- Storing the delta of an endpoint that the unpack has formed recovers the delta (R225, R261). -/
theorem delta6_residue_add {d : Desc6} (e0 : Half) {x : Int} (hepb1 : 1 ≤ d.epb) (hepb : d.epb ≤ 16)
    (hx : inSignedRange d.epb x = true) :
    delta6 d e0 (BitVec.ofNat 16 (residue d.epb (e0.toNat + x))) = x := by
  have hlt := (residue_lt d.epb (e0.toNat + x)).trans_le (Nat.pow_le_pow_right (by decide) hepb)
  rw [delta6_eq_bmod, BitVec.toNat_ofNat, Nat.mod_eq_of_lt hlt, natCast_residue, Int.emod_sub_bmod,
    add_sub_cancel_left, bmod_of_inSignedRange hepb1 hx]

/-- The low bits of a delta are those of the difference of the registers (R261). -/
theorem getLsbD_ofNat_residue_delta6 {d : Desc6} {n : Nat} (hn : n ≤ d.epb) (hepb : d.epb ≤ 16)
    (e0 ek : Half) {j : Nat} (hj : j < n) :
    (BitVec.ofNat 16 (residue n (delta6 d e0 ek))).getLsbD j = (ek - e0).getLsbD j := by
  have hdiff : ek - e0 = BitVec.ofInt 16 ((ek.toNat : Int) - e0.toNat) := by
    apply BitVec.eq_of_toInt_eq
    rw [BitVec.toInt_sub, BitVec.toInt_ofInt, BitVec.toInt_eq_toNat_bmod, BitVec.toInt_eq_toNat_bmod,
      Int.sub_bmod_bmod, Int.bmod_sub_bmod]
  rw [delta6_eq_bmod, residue_bmod hn, getLsbD_ofNat_residue (hn.trans hepb) _ hj, hdiff]

/-! ## The stored fields and the endpoints they decode to (R225, R261) -/

/-- The widths of R191: deltas are no wider than endpoints, and as wide where they are not deltas. -/
theorem db_bounds (m : Mode6) (c : Fin 4) : 1 ≤ (refDesc6 m).db c ∧ (refDesc6 m).db c ≤ (refDesc6 m).epb ∧
    (refDesc6 m).epb ≤ 16 ∧ ((refDesc6 m).transformed = false → (refDesc6 m).db c = (refDesc6 m).epb) := by
  revert c
  cases m <;> decide

theorem storable6_iff {d : Desc6} {ep : EpFile} {e : Fin 6} {c : Fin 4} : storable6 d ep e c = true ↔
    (epAt ep e c).toNat < 2 ^ d.epb ∧ (d.transformed = true → e ≠ 0 →
      inSignedRange (d.db c) (delta6 d (epAt ep 0 c) (epAt ep e c)) = true) := by
  rw [storable6, Bool.and_eq_true, decide_eq_true_iff]
  by_cases he : e = 0 <;> cases d.transformed <;> simp [he]

section Components

variable {d : Desc6} {e : Fin 6} {c : Fin 4}

theorem stored6_of_absent (h : d.Absent e c) (ep : EpFile) : stored6 d ep e c = 0#16 :=
  if_pos h

theorem stored6_of_plain (h : ¬d.Absent e c) (hplain : d.Plain e) (ep : EpFile) :
    stored6 d ep e c = epAt ep e c := by
  rw [stored6, if_neg h, if_pos hplain]

theorem stored6_of_delta (h : ¬d.Absent e c) (hdelta : ¬d.Plain e) (ep : EpFile) :
    stored6 d ep e c = BitVec.ofNat 16 (residue (d.db c) (delta6 d (epAt ep 0 c) (epAt ep e c))) := by
  rw [stored6, if_neg h, if_neg hdelta]

theorem endpoint6_of_plain (h : ¬d.Absent e c) (hplain : d.Plain e) (raw : EpFile) :
    endpoint6 d raw e c = epAt raw e c := by
  rw [endpoint6, if_neg h, if_pos hplain]

theorem endpoint6_of_delta (h : ¬d.Absent e c) (hdelta : ¬d.Plain e) (raw : EpFile) :
    endpoint6 d raw e c = BitVec.ofNat 16
      (residue d.epb ((epAt raw 0 c).toNat + sext (d.db c) (epAt raw e c).toNat)) := by
  rw [endpoint6, if_neg h, if_neg hdelta]

end Components

/-- Decoding the stored fields of components that can be stored gives the components back (R263). -/
theorem endpoint6_stored6 {m : Mode6} {ep : EpFile} {e : Fin 6} {c : Fin 4}
    (h : ¬(refDesc6 m).Absent e c) (hep : storable6 (refDesc6 m) ep e c = true) :
    endpoint6 (refDesc6 m) (epFile (stored6 (refDesc6 m) ep)) e c = epAt ep e c := by
  obtain ⟨hlt, hrange⟩ := storable6_iff.mp hep
  obtain ⟨hdb, hle, hepb, -⟩ := db_bounds m c
  by_cases hplain : (refDesc6 m).Plain e
  · rw [endpoint6_of_plain h hplain, epAt_epFile, stored6_of_plain h hplain]
  · obtain ⟨htransformed, he⟩ := Desc6.not_plain_iff.mp hplain
    have hdelta := bmod_of_inSignedRange hdb (hrange htransformed he)
    have hlt16 := (residue_lt ((refDesc6 m).db c) (delta6 (refDesc6 m) (epAt ep 0 c) (epAt ep e c))).trans_le
      (Nat.pow_le_pow_right (by decide) (hle.trans hepb))
    rw [endpoint6_of_delta h hplain, epAt_epFile, epAt_epFile,
      stored6_of_plain (Desc6.not_absent_zero h) (.inl rfl), stored6_of_delta h hplain,
      BitVec.toNat_ofNat, Nat.mod_eq_of_lt hlt16, sext_residue, hdelta,
      residue_add_delta6 _ _ hlt, BitVec.ofNat_toNat, BitVec.setWidth_eq]

/-- What a delta field of a block decodes to stands at that delta from endpoint 0 (R225, R261). -/
theorem delta6_endpoints6 {m : Mode6} {raw : EpFile} {e : Fin 6} {c : Fin 4}
    (h : ¬(refDesc6 m).Absent e c) (hdelta : ¬(refDesc6 m).Plain e) :
    delta6 (refDesc6 m) (epAt (endpoints6 (refDesc6 m) raw) 0 c) (epAt (endpoints6 (refDesc6 m) raw) e c) =
      sext ((refDesc6 m).db c) (epAt raw e c).toNat := by
  obtain ⟨hdb, hle, hepb, -⟩ := db_bounds m c
  rw [endpoints6, epAt_epFile, epAt_epFile, endpoint6_of_plain (Desc6.not_absent_zero h) (.inl rfl),
    endpoint6_of_delta h hdelta, delta6_residue_add _ (hdb.trans hle) hepb (inSignedRange_sext hdb hle _)]

/-- The endpoints of a block whose fields fit can be stored (R263). -/
theorem storable6_endpoints6 {m : Mode6} {raw : EpFile}
    (hraw : compsFit (compWidth6 (refDesc6 m)) raw = true) {e : Fin 6} {c : Fin 4}
    (h : ¬(refDesc6 m).Absent e c) :
    storable6 (refDesc6 m) (endpoints6 (refDesc6 m) raw) e c = true := by
  obtain ⟨hdb, -, -, -⟩ := db_bounds m c
  refine storable6_iff.mpr ⟨epAt_endpoints6_lt hraw e c, fun htransformed he => ?_⟩
  rw [delta6_endpoints6 h (Desc6.not_plain_iff.mpr ⟨htransformed, he⟩)]
  exact inSignedRange_sext hdb le_rfl _

/-- Storing the endpoints of a block whose fields fit gives the fields back (R263). -/
theorem stored6_endpoints6 {m : Mode6} {raw : EpFile}
    (hraw : compsFit (compWidth6 (refDesc6 m)) raw = true) (e : Fin 6) (c : Fin 4) :
    stored6 (refDesc6 m) (endpoints6 (refDesc6 m) raw) e c = epAt raw e c := by
  have hlt := of_decide_eq_true hraw e c
  by_cases h : (refDesc6 m).Absent e c
  · rw [compWidth6, if_pos h, Nat.pow_zero, Nat.lt_one_iff] at hlt
    exact (stored6_of_absent h _).trans (BitVec.eq_of_toNat_eq hlt.symm)
  by_cases hplain : (refDesc6 m).Plain e
  · rw [stored6_of_plain h hplain, endpoints6, epAt_epFile, endpoint6_of_plain h hplain]
  · rw [compWidth6_of_ne_zero h (Desc6.not_plain_iff.mp hplain).2] at hlt
    rw [stored6_of_delta h hplain, delta6_endpoints6 h hplain, sext_eq_bmod, residue_bmod le_rfl,
      residue_natCast_of_lt hlt, BitVec.ofNat_toNat, BitVec.setWidth_eq]

/-- A stored field fits the width its mode gives it (R191, R261). -/
theorem toNat_stored6_lt {m : Mode6} {ep : EpFile} {e : Fin 6} {c : Fin 4}
    (hep : ¬(refDesc6 m).Absent e c → storable6 (refDesc6 m) ep e c = true) :
    (stored6 (refDesc6 m) ep e c).toNat < 2 ^ compWidth6 (refDesc6 m) e c := by
  obtain ⟨-, hle, hepb, hsame⟩ := db_bounds m c
  by_cases h : (refDesc6 m).Absent e c
  · rw [stored6_of_absent h]
    exact Nat.two_pow_pos _
  by_cases hplain : (refDesc6 m).Plain e
  · have hwidth : compWidth6 (refDesc6 m) e c = (refDesc6 m).epb := by
      rw [compWidth6, if_neg h]
      exact ite_eq_left_iff.mpr fun he => hsame (hplain.resolve_left he)
    rw [stored6_of_plain h hplain, hwidth]
    exact (storable6_iff.mp (hep h)).1
  · rw [stored6_of_delta h hplain, compWidth6_of_ne_zero h (Desc6.not_plain_iff.mp hplain).2,
      BitVec.toNat_ofNat]
    exact (Nat.mod_le ..).trans_lt (residue_lt ..)

/-! ## The partition and the indices that a pack examines (R260, R262) -/

theorem ns_desc6 (m : Mode6) : (refDesc6 m).ns = 1 ∨ (refDesc6 m).ns = 2 := by cases m <;> decide

theorem packPart6_of_two {d : Desc6} (h : d.ns = 2) (part : BitVec 6) : packPart6 d part = part := if_pos h

theorem packPart6_of_ne_two {d : Desc6} (h : d.ns ≠ 2) (part : BitVec 6) : packPart6 d part = 0#6 := if_neg h

section Partition

variable {m : Mode6} {part : BitVec 6}

/-- A partition id that passes the check fits the field `d`. -/
theorem setWidth_packPart6 (hpart : (refDesc6 m).ns = 2 → part.toNat ≤ 31) :
    ((packPart6 (refDesc6 m) part).setWidth 5).setWidth 6 = packPart6 (refDesc6 m) part := by
  by_cases hns : (refDesc6 m).ns = 2
  · have hle := hpart hns
    apply BitVec.eq_of_toNat_eq
    rw [packPart6_of_two hns, BitVec.toNat_setWidth_of_le (by decide), BitVec.toNat_setWidth,
      Nat.mod_eq_of_lt (by omega)]
  · rw [packPart6_of_ne_two hns]
    rfl

/-- With one subset the anchors do not depend on `PART`. -/
theorem anchorPixels_packPart6 (m : Mode6) (part : BitVec 6) :
    Spec.anchorPixels (refDesc6 m).ns (packPart6 (refDesc6 m) part).toNat =
      Spec.anchorPixels (refDesc6 m).ns part.toNat := by
  rcases ns_desc6 m with hns | hns <;> rw [packPart6, hns] <;> rfl

theorem indexWidth_packPart6 (m : Mode6) (part : BitVec 6) (nom i : Nat) :
    Spec.indexWidth (refDesc6 m).ns (packPart6 (refDesc6 m) part).toNat nom i =
      Spec.indexWidth (refDesc6 m).ns part.toNat nom i := by
  rw [Spec.indexWidth, anchorPixels_packPart6, ← Spec.indexWidth]

theorem indexOffset_packPart6 (m : Mode6) (part : BitVec 6) (nom i : Nat) :
    Spec.indexOffset (refDesc6 m).ns (packPart6 (refDesc6 m) part).toNat nom i =
      Spec.indexOffset (refDesc6 m).ns part.toNat nom i := by
  rw [Spec.indexOffset, anchorPixels_packPart6, ← Spec.indexOffset]

theorem anchorsAgree_packPart6 (hpart : (refDesc6 m).ns = 2 → part.toNat ≤ 31) :
    AnchorsAgree refConfig .bc6h (refDesc6 m).ns (packPart6 (refDesc6 m) part) := by
  rw [← setWidth_packPart6 hpart]
  exact anchorsAgree_desc6 m _

/-- The indices that fit are those of the statements (R260). -/
theorem fits_packPart6_iff (hpart : (refDesc6 m).ns = 2 → part.toNat ≤ 31) (idx : IdxFile) :
    (indexArray6 (refDesc6 m) (packPart6 (refDesc6 m) part)).fits refConfig idx = true ↔
      ∀ i : Pixel, idx[i].toNat ≤
        2 ^ Spec.indexWidth (refDesc6 m).ns part.toNat (refDesc6 m).nom i.val - 1 := by
  have hwidth : ∀ i : Pixel, (indexArray6 (refDesc6 m) (packPart6 (refDesc6 m) part)).width refConfig i =
      Spec.indexWidth (refDesc6 m).ns part.toNat (refDesc6 m).nom i.val := fun i =>
    (widthAt_eq_indexWidth (anchorsAgree_packPart6 hpart) _ i).trans (indexWidth_packPart6 ..)
  simp only [IndexArray.fits, decide_eq_true_eq, hwidth]
  exact forall_congr' fun i => Nat.lt_iff_le_pred (Nat.two_pow_pos _)

end Partition

/-! ## The contract (R260, R261) -/

/-- The model's check, clause by clause. -/
theorem contract6_iff_clauses {m : Mode6} {s : State} : contract6 refConfig m s = true ↔
    (∀ (e : Fin 6) (c : Fin 4), ¬(refDesc6 m).Absent e c → storable6 (refDesc6 m) s.ep e c = true) ∧
    ((refDesc6 m).ns = 2 → s.part.toNat ≤ 31) ∧
    (indexArray6 (refDesc6 m) (packPart6 (refDesc6 m) s.part)).fits refConfig s.idx = true := by
  have hcomps : (∀ (e : Fin 6) (c : Fin 4), e.val < 2 * (refDesc6 m).ns → c ≠ 3 →
      storable6 (refDesc6 m) s.ep e c = true) ↔
      ∀ (e : Fin 6) (c : Fin 4), ¬(refDesc6 m).Absent e c → storable6 (refDesc6 m) s.ep e c = true := by
    refine forall₂_congr fun e c => ?_
    rw [not_or, not_le, and_imp, imp.swap]
  have hpart : ((refDesc6 m).ns != 2 || decide (s.part.toNat ≤ 31)) = true ↔
      ((refDesc6 m).ns = 2 → s.part.toNat ≤ 31) := by
    rw [Bool.or_eq_true, bne_iff_ne, decide_eq_true_iff, imp_iff_not_or]
  rw [← hcomps, ← hpart, ← and_assoc, ← decide_eq_true_iff (p := ∀ _ _, _), ← Bool.and_eq_true,
    ← Bool.and_eq_true]
  rfl

/-- Every component can be stored: all endpoints fit `EPB` bits, and in a transformed mode all deltas their
fields (R260, R261). -/
theorem forall_storable6_iff {m : Mode6} {ep : EpFile} :
    (∀ (e : Fin 6) (c : Fin 4), ¬(refDesc6 m).Absent e c → storable6 (refDesc6 m) ep e c = true) ↔
    (∀ (k : Fin 6) (c : Fin 4), k.val < 2 * (refDesc6 m).ns → c ≠ 3 →
      (epAt ep k c).toNat ≤ 2 ^ (refDesc6 m).epb - 1) ∧
    ((refDesc6 m).transformed = true → ∀ (k : Fin 6) (c : Fin 4), k ≠ 0 → k.val < 2 * (refDesc6 m).ns →
      c ≠ 3 → -(2 ^ ((refDesc6 m).db c - 1) : Int) ≤ Spec.delta6 m ep k c ∧
        Spec.delta6 m ep k c ≤ 2 ^ ((refDesc6 m).db c - 1) - 1) := by
  simp only [storable6_iff, inSignedRange_iff, delta6_eq_spec, not_or, not_le,
    Nat.lt_iff_le_pred (Nat.two_pow_pos _)]
  constructor
  · exact fun h => ⟨fun k c hk hc => (h k c ⟨hc, hk⟩).1,
      fun htransformed k c hne hk hc => (h k c ⟨hc, hk⟩).2 htransformed hne⟩
  · exact fun ⟨hfit, hdelta⟩ k c ⟨hc, hk⟩ => ⟨hfit k c hk hc,
      fun htransformed hne => hdelta htransformed k c hne hk hc⟩

/-- The model's check of the operands is the contract of the statements. -/
theorem contract6_iff {m : Mode6} {s : State} : contract6 refConfig m s = true ↔ Spec.Packable6 m s := by
  rw [contract6_iff_clauses, forall_storable6_iff]
  constructor
  · rintro ⟨⟨hfit, hdelta⟩, hpart, hidx⟩
    exact ⟨hfit, hpart, hdelta, (fits_packPart6_iff hpart s.idx).mp hidx⟩
  · rintro ⟨hfit, hpart, hdelta, hidx⟩
    exact ⟨⟨hfit, hdelta⟩, hpart, (fits_packPart6_iff hpart s.idx).mpr hidx⟩

/-! ## How a pack ends (R260, R402) -/

theorem exec_bc6hPack_of_fits {m : Mode6} {s : State} (h : contract6 refConfig m s = true) :
    exec (.bc6hPack m) s = .next ((s.setBlk (encodeBlock6 refConfig m (packFields6 refConfig m s))).complete
      false (BitVec.ofNat 5 (refDesc6 m).code) (nsField (refDesc6 m).ns)) := by
  rw [exec_bc6hPack, pack6, if_pos h]
  rfl

theorem exec_bc6hPack_of_not_fits {m : Mode6} {s : State} (h : ¬contract6 refConfig m s = true) :
    exec (.bc6hPack m) s = .next (s.raise .packContract) := by
  rw [exec_bc6hPack, pack6, if_neg h]

/-- Settles O30: the check fails, and the fault writes `STATUS` alone. -/
theorem bc6hPackContractFaults : Obligations.Bc6hPackContractFaults :=
  fun _ _ h => exec_bc6hPack_of_not_fits (mt contract6_iff.mp h)

theorem setWidth_part_packFields6 {m : Mode6} {s : State}
    (hpart : (refDesc6 m).ns = 2 → s.part.toNat ≤ 31) :
    (packFields6 refConfig m s).part.setWidth 6 = packPart6 (refDesc6 m) s.part := setWidth_packPart6 hpart

/-- The fields that a pack places are well formed: the decoder reads them back (R209, R260). -/
theorem wf6_packFields6 {m : Mode6} {s : State} (h : contract6 refConfig m s = true) :
    wf6 refConfig m (packFields6 refConfig m s) = true := by
  obtain ⟨hep, hpart, hidx⟩ := contract6_iff_clauses.mp h
  rw [wf6_iff, setWidth_part_packFields6 hpart]
  refine ⟨fun x => ?_, hidx⟩
  cases x with
  | comp e c => exact (congrArg BitVec.toNat (epAt_epFile ..)).trans_lt (toNat_stored6_lt (hep e c))
  | d =>
    rw [value6, fieldWidth6, packFields6, BitVec.toNat_setWidth_of_le (by decide)]
    split_ifs with hns
    · exact BitVec.isLt _
    · have hpart0 : packPart6 (refConfig.desc6 m) s.part = 0#6 := packPart6_of_ne_two hns _
      rw [hpart0]
      exact Nat.one_pos

/-! ## What a pack places (O29) -/

/-- Every bit that a field has room for is the bit of the value the statements give it (R260, R261). -/
theorem getLsbD_value6_packFields6 {m : Mode6} (s : State) {x : Field6} {j : Nat}
    (hj : j < fieldWidth6 m x) :
    (value6 (packFields6 refConfig m s) x).getLsbD j = (Spec.packedField6 m s x).getLsbD j := by
  cases x with
  | d =>
    obtain ⟨hns, hj5⟩ : (refDesc6 m).ns = 2 ∧ j < 5 := by
      rw [fieldWidth6] at hj
      split_ifs at hj with hns
      · exact ⟨hns, hj⟩
      · exact absurd hj (Nat.not_lt_zero j)
    have hpart : packPart6 (refConfig.desc6 m) s.part = s.part := packPart6_of_two hns _
    rw [value6, packFields6, Spec.packedField6, hpart, BitVec.getLsbD_setWidth, BitVec.getLsbD_setWidth,
      BitVec.getLsbD_setWidth]
    simp [hj5]
  | comp e c =>
    obtain ⟨-, hle, hepb, -⟩ := db_bounds m c
    have h : ¬(refDesc6 m).Absent e c := fun habsent => by
      rw [fieldWidth6, compWidth6, if_pos habsent] at hj
      exact absurd hj (Nat.not_lt_zero j)
    have hstored : value6 (packFields6 refConfig m s) (.comp e c) = stored6 (refDesc6 m) s.ep e c :=
      epAt_epFile ..
    rw [hstored, Spec.packedField6]
    split_ifs with hdelta
    · rw [fieldWidth6, compWidth6_of_ne_zero h hdelta.2] at hj
      rw [stored6_of_delta h (Desc6.not_plain_iff.mpr hdelta), getLsbD_ofNat_residue_delta6 hle hepb _ _ hj]
    · rw [stored6_of_plain h (not_not.mp (mt Desc6.not_plain_iff.mp hdelta))]

/-- A packed index stands in the span that the statements give its pixel (R262). -/
theorem field_index_packFields6 {m : Mode6} {s : State} (h : contract6 refConfig m s = true) (i : Pixel) :
    Spec.field (encodeBlock6 refConfig m (packFields6 refConfig m s))
      ((refDesc6 m).indexBegin + Spec.indexOffset (refDesc6 m).ns s.part.toNat (refDesc6 m).nom i.val)
      (Spec.indexWidth (refDesc6 m).ns s.part.toNat (refDesc6 m).nom i.val) = s.idx[i].toNat := by
  obtain ⟨-, hpart, -⟩ := contract6_iff_clauses.mp h
  obtain ⟨hnom, hnom2, -⟩ := desc6_bounds m
  have hnom1 : 1 ≤ (refDesc6 m).nom := by omega
  have hread := IndexArray.read_eq (wf6_iff.mp (wf6_packFields6 h)).2 (memRead_encodeBlock6_index m _)
  rw [setWidth_part_packFields6 hpart] at hread
  rw [← indexOffset_packPart6, ← indexWidth_packPart6]
  exact (toNat_getElem_read _ (anchorsAgree_packPart6 hpart) hnom1 hnom _ i).symm.trans
    (congrArg (fun idx : IdxFile => idx[i].toNat) hread)

/-- Settles O29: a packed block is the encoding of `packFields6`, whose layout bits and indices are the
registers' (R260 to R262). -/
theorem bc6hPackPlacesTheFields : Obligations.Bc6hPackPlacesTheFields := by
  intro s m h d
  have hfit := contract6_iff.mpr h
  refine ⟨_, exec_bc6hPack_of_fits hfit, rfl, ?_, ?_, ?_⟩ <;> rw [State.complete_blk, State.setBlk_blk]
  · exact modeOf6_eq_some_iff.mp (modeOf6_encodeBlock6 m _)
  · intro l hl k hfirst hlast
    have hentry := entry_of_line6 m hl hfirst hlast
    exact (getLsbD_encodeBlock6_entry m _ _ hentry).trans
      (getLsbD_value6_packFields6 s (entries6_pos_lt m _ hentry))
  · exact field_index_packFields6 hfit

/-! ## Packing after an unpack (O31) -/

section AfterUnpack

variable {m : Mode6} {f : Fields6} (hf : wf6 refConfig m f = true) (signed : Bool) (s : State)
include hf

theorem packPart6_of_wf6 : packPart6 (refDesc6 m) (f.part.setWidth 6) = f.part.setWidth 6 := by
  obtain ⟨-, hpart, -⟩ := clauses_of_wf6 hf
  by_cases hns : (refDesc6 m).ns = 2
  · exact packPart6_of_two hns _
  · rw [packPart6_of_ne_two hns, hpart.resolve_left hns]
    rfl

/-- What the unpack of fields that fit leaves in the registers passes the check (R263 (a)). -/
theorem contract6_live6 : contract6 refConfig m (live6 refConfig m signed f s) = true := by
  obtain ⟨hraw, -, hidx⟩ := clauses_of_wf6 hf
  refine contract6_iff_clauses.mpr ⟨fun e c => storable6_endpoints6 hraw, fun _ => ?_, ?_⟩
  · exact (BitVec.toNat_setWidth_of_le (by decide)).trans_le (by omega)
  · show (indexArray6 (refDesc6 m) (packPart6 (refDesc6 m) (f.part.setWidth 6))).fits refConfig f.idx = true
    rwa [packPart6_of_wf6 hf]

/-- Packing what the unpack of fields that fit leaves places those fields (R263 (a)). -/
theorem packFields6_live6 : packFields6 refConfig m (live6 refConfig m signed f s) = f := by
  obtain ⟨hraw, -, -⟩ := clauses_of_wf6 hf
  have hcomps : epFile (stored6 (refDesc6 m) (endpoints6 (refDesc6 m) f.raw)) = f.raw :=
    ep_ext fun e c => by rw [epAt_epFile, stored6_endpoints6 hraw]
  have hpart : (packPart6 (refDesc6 m) (f.part.setWidth 6)).setWidth 5 = f.part := by
    rw [packPart6_of_wf6 hf, BitVec.setWidth_setWidth_of_le _ (by decide), BitVec.setWidth_eq]
  calc packFields6 refConfig m (live6 refConfig m signed f s)
    _ = ⟨epFile (stored6 (refDesc6 m) (endpoints6 (refDesc6 m) f.raw)),
          (packPart6 (refDesc6 m) (f.part.setWidth 6)).setWidth 5, f.idx⟩ := rfl
    _ = f := by rw [hcomps, hpart]

end AfterUnpack

/-- Settles O31: the unpack leaves the block's fields, which packing encodes again. -/
theorem bc6hPackOfUnpack : Obligations.Bc6hPackOfUnpack := by
  intro s t m hm ht
  obtain ⟨signed, rfl⟩ : ∃ signed, t = live6 refConfig m signed (fields6 refConfig m s.blk) s := by
    rw [exec_bc6hUnpackU, exec_bc6hUnpackS, unpack6_of_mode hm, unpack6_of_mode hm] at ht
    rcases ht with ht | ht <;> cases ht <;> exact ⟨_, rfl⟩
  have hf := wf6_fields6 m s.blk
  refine ⟨_, exec_bc6hPack_of_fits (contract6_live6 hf signed s), ?_, ?_⟩
  · rw [State.complete_blk, State.setBlk_blk, packFields6_live6 hf, encodeBlock6_fields6 hm]
  · rw [State.complete_status, statusErr_statusWord]

/-! ## Unpacking after a pack (O32) -/

/-- Either unpack of the block that a pack leaves is the unpack of the fields it placed. -/
theorem unpack6_of_pack {m : Mode6} {s t : State} (h : contract6 refConfig m s = true)
    (hblk : t.blk = encodeBlock6 refConfig m (packFields6 refConfig m s)) (signed : Bool) :
    unpack6 refConfig signed t = live6 refConfig m signed (packFields6 refConfig m s) t := by
  have hm : modeOf6 t.blk = some m := by rw [hblk, modeOf6_encodeBlock6]
  rw [unpack6_of_mode hm, hblk, fields6_encodeBlock6 (wf6_packFields6 h)]

/-- Settles O32: the unpack's fields are those placed, and decoding them undoes R261. -/
theorem bc6hUnpackOfPack : Obligations.Bc6hUnpackOfPack := by
  intro s t m hpackable ht i hi
  have h := contract6_iff.mpr hpackable
  obtain ⟨hep, hpart, -⟩ := contract6_iff_clauses.mp h
  rw [exec_bc6hPack_of_fits h] at ht
  cases ht
  obtain ⟨signed, hexec⟩ : ∃ signed, ∀ t, exec i t = .next (unpack6 refConfig signed t) := by
    rw [List.mem_pair] at hi
    rcases hi with rfl | rfl
    · exact ⟨false, exec_bc6hUnpackU⟩
    · exact ⟨true, exec_bc6hUnpackS⟩
  refine ⟨_, hexec _, ?_⟩
  rw [unpack6_of_pack h (by rw [State.complete_blk, State.setBlk_blk])]
  refine ⟨fun k c hk hc => ?_, rfl, fun hns => ?_, ?_⟩
  · have hpresent : ¬(refDesc6 m).Absent k c := by omega
    exact (epAt_epFile ..).trans (endpoint6_stored6 hpresent (hep k c hpresent))
  · exact (setWidth_packPart6 hpart).trans (packPart6_of_two hns _)
  · rw [live6, State.complete_status, statusMode_statusWord]
    cases m <;> rfl

end Sys2Proof.Machine

/-! PROOFS. The block rows of BC7 (spec/46_bc7_modes.md R294 to R302): the pipeline of the meanings
(spec/47_bc7_decode.md) against the statements' formulas, step by step. -/

namespace Sys2Proof

/-! ## The stored widths of a mode (R291) -/

/-- The stored width of a component of an endpoint that the mode has (R291). -/
abbrev Desc7.compBits (d : Desc7) (c : Fin 4) : Nat := if c = 3 then d.ab else d.cb

theorem compWidth7_le_compBits (d : Desc7) (e : Fin 6) (c : Fin 4) :
    compWidth7 d e c ≤ d.compBits c := by
  rw [compWidth7]
  split_ifs <;> omega

/-- Only alpha can be missing (R291). -/
theorem compBits_eq_zero_iff (m : Mode7) (c : Fin 4) :
    (refDesc7 m).compBits c = 0 ↔ c = 3 ∧ (refDesc7 m).ab = 0 := by
  revert c
  cases m <;> decide

/-- A second array is of 2 or 3 bits (R291). -/
theorem ib2_eq_two_or_three {m : Mode7} {ib2 : Nat} (h : (refDesc7 m).ib2 = some ib2) :
    ib2 = 2 ∨ ib2 = 3 := by
  cases m <;> cases h <;> decide

end Sys2Proof

namespace Sys2Proof.Machine

/-! ## Steps 3 to 5: the full 8-bit components (R325 to R327) -/

/-- The repeated bits of R326 are the value's high-order bits, and nothing reaches beyond the byte. -/
theorem expand_eq_expand8 {v n : Nat} (hn : 4 ≤ n) (hn8 : n ≤ 8) (hv : v < 2 ^ n) :
    expand v n = Spec.expand8 v n := by
  have hpow : 2 ^ (8 - n) * 2 ^ (2 * n - 8) = 2 ^ n := by rw [← Nat.pow_add]; congr 1; omega
  have hrepeat : v * 2 ^ (8 - n) / 2 ^ n = v / 2 ^ (2 * n - 8) := by
    rw [← hpow, ← Nat.div_div_eq_div_mul, Nat.mul_div_cancel _ (Nat.two_pow_pos _)]
  have htop : v * 2 ^ (8 - n) < 2 ^ 8 := by
    calc v * 2 ^ (8 - n) < 2 ^ n * 2 ^ (8 - n) := Nat.mul_lt_mul_of_pos_right hv (Nat.two_pow_pos _)
      _ = 2 ^ 8 := by rw [← Nat.pow_add, Nat.add_sub_cancel' hn8]
  have hlow : v / 2 ^ (2 * n - 8) < 2 ^ 8 :=
    (Nat.div_le_self ..).trans_lt (hv.trans_le (Nat.pow_le_pow_right (by decide) hn8))
  rw [expand, Spec.expand8, Nat.shiftLeft_eq, Nat.shiftRight_eq_div_pow, hrepeat]
  exact Nat.mod_eq_of_lt (Nat.or_lt_two_pow htop hlow)

theorem pbitOf_eq_spec (m : Mode7) (pbits : BitVec 6) (e : Fin 6) :
    pbitOf (refDesc7 m) pbits e = Spec.pbit7 m pbits e.val := by
  cases m <;> rfl

/-- Every component that a mode stores has 5 to 8 bits with its P-bit (R291, R325). -/
theorem precision7_bounds {m : Mode7} {c : Fin 4} (h : (refDesc7 m).compBits c ≠ 0) :
    5 ≤ precision7 (refDesc7 m) c ∧ precision7 (refDesc7 m) c ≤ 8 := by
  revert c
  cases m <;> decide

theorem appendPbit_lt {d : Desc7} {f : Fields7} {e : Fin 6} {c : Fin 4}
    (h : (epAt f.raw e c).toNat < 2 ^ compWidth7 d e c) :
    appendPbit d f e c < 2 ^ precision7 d c := by
  have hraw := h.trans_le (Nat.pow_le_pow_right (by decide) (compWidth7_le_compBits d e c))
  rw [Desc7.compBits] at hraw
  have hbit : pbitOf d f.pbits e ≤ 1 := by
    unfold pbitOf
    split <;> simp [Bool.toNat_le]
  rw [appendPbit, precision7]
  by_cases hnone : d.pbits = .none
  · rw [if_pos hnone, if_pos hnone]
    exact hraw
  · rw [if_neg hnone, if_neg hnone, Nat.pow_succ]
    omega

/-- The modes that R325 lists without P-bits are those whose descriptor has none. -/
theorem spec_full7_eq (m : Mode7) (f : Fields7) (s : State) (e : Fin 6) (c : Fin 4) :
    Spec.full7 m (live7 refConfig m f s) e.val c =
      if (refDesc7 m).compBits c = 0 then 255
      else Spec.expand8 (appendPbit (refDesc7 m) f e c) (precision7 (refDesc7 m) c) := by
  have he : Fin.ofNat 6 e.val = e := Fin.ofNat_val_eq_self e
  rw [appendPbit, pbitOf_eq_spec]
  unfold Spec.full7
  rw [he]
  cases m <;> rfl

theorem full7_eq_spec {m : Mode7} {f : Fields7} (hf : wf7 refConfig m f = true) (s : State) (e : Fin 6)
    (c : Fin 4) : full7 (refDesc7 m) f e c = Spec.full7 m (live7 refConfig m f s) e.val c := by
  obtain ⟨hfits, -, -⟩ := wf7_iff.mp hf
  rw [full7, spec_full7_eq]
  by_cases habsent : (refDesc7 m).compBits c = 0
  · rw [if_pos habsent, if_pos ((compBits_eq_zero_iff m c).mp habsent)]
  · obtain ⟨hge, hle⟩ := precision7_bounds habsent
    rw [if_neg habsent, if_neg (mt (compBits_eq_zero_iff m c).mpr habsent)]
    exact expand_eq_expand8 (Nat.le_of_succ_le hge) hle (appendPbit_lt (hfits (.comp e c)))

/-! ## Step 6: the index of a channel and the interpolation (R328, R329) -/

/-- The index that a channel of a pixel uses, with its width. -/
def channelIndex (d : Desc7) (f : Fields7) (i : Pixel) (c : Fin 4) : BitVec 4 × Nat :=
  if c = 3 then ((indexRoles d f i).alpha, (indexRoles d f i).alphaBits)
  else ((indexRoles d f i).colour, (indexRoles d f i).colourBits)

theorem channel7_eq_interp (g : Config) (d : Desc7) (f : Fields7) (i : Pixel) (c : Fin 4) :
    channel7 g d f i c = BitVec.ofInt 16 (interp g
      (full7 d f (firstEndpoint (subsetAt g .bc7 d.ns f.part i)) c)
      (full7 d f (secondEndpoint (subsetAt g .bc7 d.ns f.part i)) c)
      (channelIndex d f i c).1 (channelIndex d f i c).2) := by
  rw [channel7, channelIndex]
  split_ifs <;> rfl

/-- Where the mode has one array, every channel uses it (R328). -/
theorem channelIndex_of_none {d : Desc7} (h : d.ib2 = none) (f : Fields7) (i : Pixel) (c : Fin 4) :
    channelIndex d f i c = (f.idx[i], d.ib) := by
  rw [channelIndex, indexRoles, h]
  exact ite_self _

/-- A channel uses one of the two arrays, at that array's width (R328). -/
theorem channelIndex_cases (d : Desc7) (f : Fields7) (i : Pixel) (c : Fin 4) :
    channelIndex d f i c = (f.idx[i], d.ib) ∨
    ∃ ib2, d.ib2 = some ib2 ∧ channelIndex d f i c = (f.idx2[i], ib2) := by
  cases hib2 : d.ib2 with
  | none => exact .inl (channelIndex_of_none hib2 f i c)
  | some ib2 =>
    rw [channelIndex, indexRoles, hib2]
    dsimp only
    split_ifs <;> simp

section Registers

variable (m : Mode7) (f : Fields7) (s : State)

@[simp] theorem live7_idxm : (live7 refConfig m f s).idxm = f.idxm := rfl

@[simp] theorem live7_idx : (live7 refConfig m f s).idx = f.idx := rfl

@[simp] theorem live7_idx2 : (live7 refConfig m f s).idx2 = f.idx2 := rfl

end Registers

/-- The model's index roles are the table of R328: by the index mode bit in mode 4, by the channel in both
modes of two arrays. -/
theorem channelIndex_eq_spec (m : Mode7) (f : Fields7) (s : State) (i : Pixel) (c : Fin 4) :
    ((channelIndex (refDesc7 m) f i c).1.toNat, (channelIndex (refDesc7 m) f i c).2) =
      Spec.index7 m (live7 refConfig m f s) i c := by
  cases m with
  | m4 =>
    rcases BitVec.eq_zero_or_eq_one f.idxm with hbit | hbit <;> by_cases hc : c = 3 <;>
      simp [channelIndex, indexRoles, Spec.index7, refDesc7, hbit, hc]
  | m5 => by_cases hc : c = 3 <;> simp [channelIndex, indexRoles, Spec.index7, refDesc7, hc]
  | m0 | m1 | m2 | m3 | m6 | m7 => rw [channelIndex_of_none rfl]; rfl

/-- The weight of a channel's index, which fits the width that it is used at (R103, R180). -/
theorem weight_channelIndex {m : Mode7} {f : Fields7} (hf : wf7 refConfig m f = true) (s : State)
    (i : Pixel) (c : Fin 4) :
    weight refConfig (channelIndex (refDesc7 m) f i c).2 (channelIndex (refDesc7 m) f i c).1 =
      Spec.weightOf (Spec.index7 m (live7 refConfig m f s) i c).2
        (Spec.index7 m (live7 refConfig m f s) i c).1 := by
  obtain ⟨-, hidx, hidx2, -⟩ := wf7_iff.mp hf
  have hfits {a : IndexArray} {idx : IdxFile} (h : a.fits refConfig idx = true) :
      idx[i].toNat < 2 ^ a.nom :=
    (of_decide_eq_true h i).trans_le (Nat.pow_le_pow_right (by decide) (a.width_le ..))
  rw [← channelIndex_eq_spec]
  rcases channelIndex_cases (refDesc7 m) f i c with heq | ⟨ib2, hib2, heq⟩ <;> rw [heq]
  · obtain ⟨-, hle, hge, -⟩ := desc7_bounds m
    exact weight_eq_weightOf (by omega) (hfits hidx)
  · have hwidth := ib2_eq_two_or_three hib2
    exact weight_eq_weightOf (by omega) (hfits (hidx2 ib2 hib2))

/-- The pixel's subset, read in the printed rows (R158). -/
theorem subsetAt_desc7 (m : Mode7) (p : BitVec 6) (i : Pixel) :
    (subsetAt refConfig .bc7 (refDesc7 m).ns p i).val = Spec.subset (refDesc7 m).ns p.toNat i := by
  have hns : (refDesc7 m).ns = 1 ∨ (refDesc7 m).ns = 2 ∨ (refDesc7 m).ns = 3 := by cases m <;> decide
  rcases hns with hns | hns | hns <;> rw [hns]
  · rfl
  · exact subsetAt_bc7_two p i
  · exact subsetAt_bc7_three p i

theorem val_firstEndpoint (sub : Fin 3) : (firstEndpoint sub).val = 2 * sub.val := rfl

theorem val_secondEndpoint (sub : Fin 3) : (secondEndpoint sub).val = 2 * sub.val + 1 := rfl

/-- A channel of a pixel before the rotation, by the statements' formulas over the state that the unpack
leaves (R329). -/
theorem toNat_channel7 {m : Mode7} {f : Fields7} (hf : wf7 refConfig m f = true) (s : State) (i : Pixel)
    (c : Fin 4) : ((channel7 refConfig (refDesc7 m) f i c).toNat : Int) =
      Spec.channel7 m (live7 refConfig m f s) i c := by
  have hmem := fun e => full7_mem (refDesc7 m) f e c
  obtain ⟨hlow, hhigh⟩ := interp_mem_Icc
    (hmem (firstEndpoint (subsetAt refConfig .bc7 (refDesc7 m).ns f.part i)))
    (hmem (secondEndpoint (subsetAt refConfig .bc7 (refDesc7 m).ns f.part i)))
    (channelIndex (refDesc7 m) f i c).1 (channelIndex (refDesc7 m) f i c).2
  rw [channel7_eq_interp, toNat_ofInt_of_lt hlow (by omega), Int.toNat_of_nonneg hlow, interp_eq_mix,
    weight_channelIndex hf s, full7_eq_spec hf s, full7_eq_spec hf s, val_firstEndpoint,
    val_secondEndpoint, subsetAt_desc7]
  rfl

/-! ## Step 7: the rotation (R330) -/

/-- A channel of a pixel by its number. -/
def Rgba.channel (p : Rgba) : Fin 4 → Half
  | 0 => p.r
  | 1 => p.g
  | 2 => p.b
  | 3 => p.a

theorem lane_texel_rgba (p : Rgba) (c : Fin 4) : lane (texel p.r p.g p.b p.a) c = p.channel c := by
  match c with
  | 0 => exact lane_texel_zero ..
  | 1 => exact lane_texel_one ..
  | 2 => exact lane_texel_two ..
  | 3 => exact lane_texel_three ..

/-- The swaps of R330 as a map of the channels' numbers. -/
theorem channel_rotate (p : Rgba) (rot : BitVec 2) (c : Fin 4) :
    (rotate p rot).channel c = p.channel (Spec.rotated rot.toNat c) := by
  have hrot : rot = 0#2 ∨ rot = 1#2 ∨ rot = 2#2 ∨ rot = 3#2 := by revert rot; decide
  rcases hrot with rfl | rfl | rfl | rfl <;> fin_cases c <;> rfl

/-- The channels of the unrotated pixel are those of step 6. -/
theorem lane_texel7 (g : Config) (d : Desc7) (f : Fields7) (i : Pixel) (c : Fin 4) :
    lane (texel7 g d f i) c = channel7 g d f i (Spec.rotated f.rot.toNat c) := by
  rw [texel7, lane_texel_rgba, pixel7, channel_rotate]
  generalize Spec.rotated f.rot.toNat c = c'
  match c' with
  | 0 | 1 | 2 | 3 => rfl

/-! ## The rows (O36) -/

/-- The unpack of a block with well-formed fields (R322 to R331). -/
theorem unpacked7_live7 {m : Mode7} {f : Fields7} (hf : wf7 refConfig m f = true) (s : State) :
    Spec.Unpacked7 m f s (live7 refConfig m f s) := by
  refine ⟨rfl, fun i c => ?_⟩
  have htex : (live7 refConfig m f s).tex[i] = texel7 refConfig (refDesc7 m) f i :=
    Vector.getElem_ofFn ..
  rw [htex, lane_texel7, toNat_channel7 hf s]
  rfl

/-- Settles O36: a mode's row is `live7`, and the Reserved row raises DataFormatError. -/
theorem bc7BlockRowsDecode : Obligations.Bc7BlockRowsDecode :=
  ⟨fun s m f hf => ⟨_, exec_blk7 m f s, unpacked7_live7 hf s⟩, fun s rest => exec_blk7Reserved rest s⟩

end Sys2Proof.Machine

/-! PROOFS. BC7 decode (spec/47_bc7_decode.md R320 to R332): the mode selector, the two commands, the
expansion of a component, the alpha of a mode without one, and the rotation. -/

namespace Sys2Proof

/-! ## The mode selector (O7) -/

/-- Settles O7: the search for the lowest set bit finds the bit of the mode's number, or none of the eight. -/
theorem bc7ModeSelector : Obligations.Bc7ModeSelector :=
  fun _ => ⟨fun _ => modeOf7_eq_some_iff, modeOf7_eq_none_iff⟩

end Sys2Proof

namespace Sys2Proof.Machine

/-! ## BC7.UNPACK of a block of a mode and of a Reserved block (O34, O35) -/

/-- The fields of a block are well formed, so its unpack is the pipeline of R322 to R331. -/
theorem unpacked7_unpack7 {s : State} {m : Mode7} (hm : modeOf7 s.blk = some m) :
    Spec.Unpacked7 m (fields7 refConfig m s.blk) s (unpack7 refConfig s) := by
  rw [unpack7_of_mode hm]
  exact unpacked7_live7 (wf7_fields7 m s.blk) s

/-- Settles O34: the command is `unpack7`. -/
theorem bc7UnpackDecodesLiveBlocks : Obligations.Bc7UnpackDecodesLiveBlocks :=
  fun s _ hm => ⟨_, exec_bc7Unpack s, unpacked7_unpack7 hm⟩

theorem unpack7_of_reserved {s : State} (h : modeOf7 s.blk = none) :
    unpack7 refConfig s = s.raise .dataFormat := by
  rw [unpack7, h]

/-- Settles O35: no mode has a zero selector byte, and the fault writes `STATUS` alone. -/
theorem bc7ReservedFaults : Obligations.Bc7ReservedFaults := by
  intro s hsel
  rw [exec_bc7Unpack, unpack7_of_reserved (modeOf7_eq_none_iff.mpr hsel)]
  rfl

/-! ## The alpha of a mode without alpha (O37) -/

/-- A mode without alpha has no rotation that could bring another channel to the alpha lane (R291). -/
theorem rb_eq_zero_of_ab_eq_zero {m : Mode7} (h : (refDesc7 m).ab = 0) : (refDesc7 m).rb = 0 := by
  revert h
  cases m <;> decide

/-- The field of a mode without rotation bits is 0 (R293). -/
theorem rot_fields7_of_rb_eq_zero {m : Mode7} (h : (refDesc7 m).rb = 0) (b : Block) :
    (fields7 refConfig m b).rot = 0#2 := by
  obtain ⟨hfits, -⟩ := wf7_iff.mp (wf7_fields7 m b)
  have hlt : (fields7 refConfig m b).rot.toNat < 2 ^ (refDesc7 m).rb := hfits .rot
  rw [h] at hlt
  exact BitVec.eq_of_toNat_eq (Nat.lt_one_iff.mp hlt)

/-- Between two endpoint alphas of 255 every weight gives 255 (R327, R329). -/
theorem channel7_alpha_of_ab_eq_zero {d : Desc7} (h : d.ab = 0) (f : Fields7) (i : Pixel) :
    channel7 refConfig d f i 3 = 255#16 := by
  have hfull : ∀ e, (full7 d f e 3 : Int) ∈ Set.Icc (255 : Int) 255 := fun e => by
    rw [full7, if_pos ⟨rfl, h⟩]
    exact ⟨le_rfl, le_rfl⟩
  obtain ⟨hge, hle⟩ := interp_mem_Icc (hfull (firstEndpoint (subsetAt refConfig .bc7 d.ns f.part i)))
    (hfull (secondEndpoint (subsetAt refConfig .bc7 d.ns f.part i)))
    (channelIndex d f i 3).1 (channelIndex d f i 3).2
  rw [channel7_eq_interp, le_antisymm hle hge]
  rfl

/-- Settles O37: the modes without alpha have no rotation, so the alpha lane is the alpha channel. -/
theorem bc7AlphaDefaultsTo255 : Obligations.Bc7AlphaDefaultsTo255 := by
  intro s t m hmem hm ht i
  have hab : (refDesc7 m).ab = 0 := by
    revert hmem
    cases m <;> decide
  rw [exec_bc7Unpack, unpack7_of_mode hm] at ht
  cases ht
  have htex : (live7 refConfig m (fields7 refConfig m s.blk) s).tex[i] =
      texel7 refConfig (refDesc7 m) (fields7 refConfig m s.blk) i := Vector.getElem_ofFn ..
  rw [htex, lane_texel7, rot_fields7_of_rb_eq_zero (rb_eq_zero_of_ab_eq_zero hab)]
  exact channel7_alpha_of_ab_eq_zero hab _ i

/-! ## The expansion of a component (O38) -/

/-- Bit `7 - k` of an expanded value: the bits of the value from the top, and after its `n` bits from the top
again (R326). -/
theorem testBit_expand {n v k : Nat} (hn : 4 ≤ n) (hn8 : n ≤ 8) (hv : v < 2 ^ n) (hk : k < 8) :
    (expand v n).testBit (7 - k) = v.testBit (if k < n then n - 1 - k else n - 1 - (k - n)) := by
  rw [expand_eq_expand8 hn hn8 hv, Spec.expand8, Nat.testBit_or, Nat.testBit_shiftLeft,
    Nat.testBit_shiftRight]
  by_cases hkn : k < n
  · have hhigh : v.testBit (2 * n - 8 + (7 - k)) = false :=
      Nat.testBit_lt_two_pow (hv.trans_le (Nat.pow_le_pow_right (by decide) (by omega)))
    have htop : 8 - n ≤ 7 - k := by omega
    rw [hhigh, Bool.or_false, if_pos hkn, decide_eq_true htop, Bool.true_and]
    congr 1
    omega
  · have hbelow : ¬8 - n ≤ 7 - k := by omega
    rw [if_neg hkn, decide_eq_false hbelow, Bool.false_and, Bool.false_or]
    congr 1
    omega

/-- Settles O38: the two ranges of `testBit_expand`. -/
theorem expandReplicatesTheTopBits : Obligations.ExpandReplicatesTheTopBits := by
  intro n v hn hn8 hv
  have hbit := fun k => testBit_expand (k := k) (Nat.le_of_succ_le hn) hn8 hv
  refine ⟨Nat.mod_lt _ (by decide), fun k hk => ?_, fun k hk hk8 => ?_⟩
  · rw [hbit k (hk.trans_le hn8), if_pos hk]
  · rw [hbit k hk8, if_neg (Nat.not_lt.mpr hk)]

/-! ## BC7.MODEOF (O33) -/

theorem exec_bc7ModeOf_of_mode {s : State} {m : Mode7} (h : modeOf7 s.blk = some m) :
    exec .bc7ModeOf s = .next (s.complete false (BitVec.ofNat 5 (refConfig.desc7 m).number)
      (nsField (refConfig.desc7 m).ns)) := by
  simp only [exec, execBc7ModeOf, h]

theorem exec_bc7ModeOf_of_reserved {s : State} (h : modeOf7 s.blk = none) :
    exec .bc7ModeOf s = .next (s.complete false modeReserved 0#2) := by
  simp only [exec, execBc7ModeOf, h]

/-- Settles O33: both outcomes complete, and completing writes `STATUS` alone. -/
theorem bc7ModeOfReports : Obligations.Bc7ModeOfReports :=
  fun _ => ⟨fun _ hm => exec_bc7ModeOf_of_mode hm, exec_bc7ModeOf_of_reserved⟩

/-! ## The rotation (O39) -/

theorem Rgba.ext_channel {p q : Rgba} (h : ∀ c, p.channel c = q.channel c) : p = q := by
  cases p
  cases q
  exact Rgba.mk.injEq .. |>.mpr ⟨h 0, h 1, h 2, h 3⟩

/-- A rotation swaps two channel numbers or none (R330). -/
theorem rotated_rotated : ∀ (rot : BitVec 2) (c : Fin 4),
    Spec.rotated rot.toNat (Spec.rotated rot.toNat c) = c := by decide

/-- Settles O39: a rotation moves the channels as `Spec.rotated` moves their numbers. -/
theorem rotationIsAnInvolution : Obligations.RotationIsAnInvolution := by
  refine fun p rot => ⟨Rgba.ext_channel fun c => ?_, rfl⟩
  rw [channel_rotate, channel_rotate, rotated_rotated]

end Sys2Proof.Machine

/-! PROOFS. BC7 pack (spec/48_bc7_pack.md): the contract of R350 as the statements read it, what a pack
places, and its two round trips with BC7.UNPACK (R352). -/

namespace Sys2Proof

/-! ## Fields of a mode, and index arrays, as the statements read them (R291, R350) -/

theorem compWidth7_of_lt {d : Desc7} {e : Fin 6} (h : e.val < 2 * d.ns) (c : Fin 4) :
    compWidth7 d e c = d.compBits c := if_neg (Nat.not_le.mpr h)

/-- The components that a mode stores: of its own endpoints, alpha only where it has alpha (R291). -/
theorem compWidth7_pos_iff (m : Mode7) (e : Fin 6) (c : Fin 4) :
    0 < compWidth7 (refDesc7 m) e c ↔ e.val < 2 * (refDesc7 m).ns ∧ (c ≠ 3 ∨ 0 < (refDesc7 m).ab) := by
  by_cases he : e.val < 2 * (refDesc7 m).ns
  · rw [compWidth7_of_lt he, Nat.pos_iff_ne_zero, ne_eq, compBits_eq_zero_iff, not_and_or,
      ← ne_eq (refDesc7 m).ab, ← Nat.pos_iff_ne_zero]
    exact (and_iff_right he).symm
  · rw [compWidth7, if_pos (Nat.not_lt.mp he)]
    exact ⟨fun h => absurd h (Nat.lt_irrefl 0), fun h => absurd h.1 he⟩

/-- An array fits when every index fits the width that the statements give its pixel (R160, R350). -/
theorem IndexArray.fits_iff {g : Config} {a : IndexArray} (h : AnchorsAgree g a.fmt a.ns a.part)
    (idx : IdxFile) : a.fits g idx = true ↔
      ∀ i : Pixel, idx[i].toNat ≤ 2 ^ Spec.indexWidth a.ns a.part.toNat a.nom i.val - 1 := by
  simp only [IndexArray.fits, decide_eq_true_eq, IndexArray.width, widthAt_eq_indexWidth h]
  exact forall_congr' fun i => Nat.lt_iff_le_pred (Nat.two_pow_pos _)

/-- The unary selector of a mode, as a number (R98). -/
theorem field_selector7 {b : Block} {m : Mode7} (h : modeOf7 b = some m) :
    Spec.field b 0 ((refDesc7 m).number + 1) = 2 ^ (refDesc7 m).number := by
  obtain ⟨hone, hzero⟩ := modeOf7_eq_some_iff.mp h
  apply Nat.eq_of_testBit_eq
  intro k
  rw [Spec.field, Nat.pow_zero, Nat.div_one, Nat.testBit_mod_two_pow, BitVec.testBit_toNat,
    Nat.testBit_two_pow]
  rcases Nat.lt_trichotomy k (refDesc7 m).number with hlt | rfl | hgt
  · simp [hzero k hlt, hlt.ne']
  · simp [hone]
  · simp [hgt.ne, show ¬k < (refDesc7 m).number + 1 by omega]

end Sys2Proof

namespace Sys2Proof.Machine

/-! ## The partition that a pack examines (R350) -/

theorem packPart7_of_pos {d : Desc7} (h : 0 < d.pb) (part : BitVec 6) : packPart7 d part = part := if_pos h

theorem packPart7_of_not_pos {d : Desc7} (h : ¬0 < d.pb) (part : BitVec 6) : packPart7 d part = 0#6 :=
  if_neg h

/-- A mode without a partition field has one subset, whose anchor does not depend on `PART` (R159, R291). -/
theorem anchorPixels_packPart7 (m : Mode7) (part : BitVec 6) :
    Spec.anchorPixels (refDesc7 m).ns (packPart7 (refDesc7 m) part).toNat =
      Spec.anchorPixels (refDesc7 m).ns part.toNat := by
  by_cases hpb : 0 < (refDesc7 m).pb
  · rw [packPart7_of_pos hpb]
  · have hns : (refDesc7 m).ns = 1 := by revert hpb; cases m <;> decide
    rw [hns]
    rfl

theorem indexWidth_packPart7 (m : Mode7) (part : BitVec 6) (nom i : Nat) :
    Spec.indexWidth (refDesc7 m).ns (packPart7 (refDesc7 m) part).toNat nom i =
      Spec.indexWidth (refDesc7 m).ns part.toNat nom i := by
  rw [Spec.indexWidth, anchorPixels_packPart7, ← Spec.indexWidth]

theorem indexOffset_packPart7 (m : Mode7) (part : BitVec 6) (nom i : Nat) :
    Spec.indexOffset (refDesc7 m).ns (packPart7 (refDesc7 m) part).toNat nom i =
      Spec.indexOffset (refDesc7 m).ns part.toNat nom i := by
  rw [Spec.indexOffset, anchorPixels_packPart7, ← Spec.indexOffset]

/-! ## The contract (R350) -/

/-- The first index array at the partition that the pack examines. -/
theorem fits_packPart7_iff (m : Mode7) (part : BitVec 6) (idx : IdxFile) :
    (indexArray7 (refDesc7 m) (refLayout7 m) (packPart7 (refDesc7 m) part)).fits refConfig idx = true ↔
      ∀ i : Pixel, idx[i].toNat ≤
        2 ^ Spec.indexWidth (refDesc7 m).ns part.toNat (refDesc7 m).ib i.val - 1 := by
  rw [IndexArray.fits_iff (anchorsAgree_desc7 m _)]
  exact forall_congr' fun i => by rw [← indexWidth_packPart7]; rfl

theorem secondFits_iff {m : Mode7} {idx2 : IdxFile} : secondFits refConfig m idx2 = true ↔
    ∀ ib2, (refDesc7 m).ib2 = some ib2 →
      (indexArray72 (refLayout7 m) ib2).fits refConfig idx2 = true := by
  have hdesc : refConfig.desc7 m = refDesc7 m := rfl
  rw [secondFits, hdesc]
  cases (refDesc7 m).ib2 with
  | none => simp
  | some ib2 => simp only [Option.some_inj, forall_eq']; rfl

/-- Every component the mode stores fits its width, colour and alpha apart (R350). -/
theorem comps_fit_iff {m : Mode7} {ep : EpFile} :
    (∀ (e : Fin 6) (c : Fin 4), 0 < compWidth7 (refDesc7 m) e c →
      (epAt ep e c).toNat < 2 ^ compWidth7 (refDesc7 m) e c) ↔
    (∀ (e : Fin 6) (c : Fin 4), e.val < 2 * (refDesc7 m).ns → c ≠ 3 →
      (epAt ep e c).toNat ≤ 2 ^ (refDesc7 m).cb - 1) ∧
    (0 < (refDesc7 m).ab → ∀ e : Fin 6, e.val < 2 * (refDesc7 m).ns →
      (epAt ep e 3).toNat ≤ 2 ^ (refDesc7 m).ab - 1) := by
  simp only [compWidth7_pos_iff, ← Nat.lt_iff_le_pred (Nat.two_pow_pos _)]
  constructor
  · intro h
    refine ⟨fun e c he hc => ?_, fun hab e he => ?_⟩
    · simpa only [compWidth7_of_lt he, Desc7.compBits, if_neg hc] using h e c ⟨he, .inl hc⟩
    · simpa only [compWidth7_of_lt he, Desc7.compBits, if_true] using h e 3 ⟨he, .inr hab⟩
  · rintro ⟨hcolour, halpha⟩ e c ⟨he, hc⟩
    rw [compWidth7_of_lt he, Desc7.compBits]
    split_ifs with h3
    · subst h3
      exact halpha (hc.resolve_left (not_not.mpr rfl)) e he
    · exact hcolour e c he h3

/-- The model's check, clause by clause. -/
theorem contract7_iff_clauses {m : Mode7} {s : State} : contract7 refConfig m s = true ↔
    (0 < (refDesc7 m).pb → s.part.toNat < 2 ^ (refDesc7 m).pb) ∧
    (∀ (e : Fin 6) (c : Fin 4), 0 < compWidth7 (refDesc7 m) e c →
      (epAt s.ep e c).toNat < 2 ^ compWidth7 (refDesc7 m) e c) ∧
    (indexArray7 (refDesc7 m) (refLayout7 m) (packPart7 (refDesc7 m) s.part)).fits refConfig s.idx = true ∧
    ∀ ib2, (refDesc7 m).ib2 = some ib2 →
      (indexArray72 (refLayout7 m) ib2).fits refConfig s.idx2 = true := by
  have hpart : ((refDesc7 m).pb == 0 || decide (s.part.toNat < 2 ^ (refDesc7 m).pb)) = true ↔
      (0 < (refDesc7 m).pb → s.part.toNat < 2 ^ (refDesc7 m).pb) := by
    rw [Bool.or_eq_true, beq_iff_eq, decide_eq_true_iff, Nat.pos_iff_ne_zero, imp_iff_not_or, not_not]
  rw [← secondFits_iff, ← hpart, ← decide_eq_true_iff (p := ∀ _ _, _), ← and_assoc, ← and_assoc,
    ← Bool.and_eq_true, ← Bool.and_eq_true, ← Bool.and_eq_true]
  rfl

/-- The model's check of the operands is the contract of the statements. -/
theorem contract7_iff {m : Mode7} {s : State} : contract7 refConfig m s = true ↔ Spec.Packable7 m s := by
  have hsecond : ∀ ib2, (indexArray72 (refLayout7 m) ib2).fits refConfig s.idx2 = true ↔
      ∀ i : Pixel, s.idx2[i].toNat ≤ 2 ^ Spec.indexWidth 1 0 ib2 i.val - 1 := fun ib2 =>
    IndexArray.fits_iff (a := indexArray72 (refLayout7 m) ib2) (anchorsAgree_one _ _ _) s.idx2
  rw [contract7_iff_clauses, comps_fit_iff, fits_packPart7_iff, and_assoc,
    Nat.lt_iff_le_pred (Nat.two_pow_pos _)]
  simp only [hsecond]
  rfl

/-! ## How a pack ends (O41) -/

theorem exec_bc7Pack_of_fits {m : Mode7} {s : State} (h : contract7 refConfig m s = true) :
    exec (.bc7Pack m) s = .next ((s.setBlk (encodeBlock7 refConfig m (packFields7 refConfig m s))).complete
      false (BitVec.ofNat 5 (refDesc7 m).number) (nsField (refDesc7 m).ns)) := by
  rw [exec_bc7Pack, pack7, if_pos h]
  rfl

theorem exec_bc7Pack_of_not_fits {m : Mode7} {s : State} (h : ¬contract7 refConfig m s = true) :
    exec (.bc7Pack m) s = .next (s.raise .packContract) := by
  rw [exec_bc7Pack, pack7, if_neg h]

/-- Settles O41: the check fails, and the fault writes `STATUS` alone. -/
theorem bc7PackContractFaults : Obligations.Bc7PackContractFaults :=
  fun _ _ h => exec_bc7Pack_of_not_fits (mt contract7_iff.mp h)

/-! ## What a pack places (O40) -/

theorem packFields7_raw (m : Mode7) (s : State) : (packFields7 refConfig m s).raw =
    keepComps (fun e c => decide (0 < compWidth7 (refDesc7 m) e c)) s.ep := rfl

theorem epAt_packFields7 (m : Mode7) (s : State) (e : Fin 6) (c : Fin 4) :
    epAt (packFields7 refConfig m s).raw e c =
      if 0 < compWidth7 (refDesc7 m) e c then epAt s.ep e c else 0#16 := by
  rw [packFields7_raw, keepComps, epAt_epFile]
  simp only [decide_eq_true_eq]

theorem packFields7_pbits (m : Mode7) (s : State) :
    (packFields7 refConfig m s).pbits = s.pbits &&& mask 6 (refDesc7 m).np := rfl

theorem getLsbD_pbits_packFields7 (m : Mode7) (s : State) (k : Nat) :
    (packFields7 refConfig m s).pbits.getLsbD k =
      (decide (k < (refDesc7 m).np) && s.pbits.getLsbD k) := by
  rw [packFields7_pbits, BitVec.getLsbD_and, getLsbD_mask]
  by_cases hk : k < 6
  · simp [hk, Bool.and_comm]
  · simp [BitVec.getLsbD_of_ge s.pbits k (by omega)]

/-- The placed fields are the registers that the mode uses; a field of width 0 is 0 (R350). -/
theorem rowField7_packFields7 (m : Mode7) (s : State) (x : Field7) :
    Spec.rowField7 (packFields7 refConfig m s) x =
      if 0 < fieldWidth7 m x then Spec.packedField7 s x else 0 := by
  cases x with
  | part => exact apply_ite BitVec.toNat ..
  | rot => exact apply_ite BitVec.toNat ..
  | idxm => exact apply_ite BitVec.toNat ..
  | comp e c =>
    rw [Spec.rowField7, epAt_packFields7]
    exact apply_ite BitVec.toNat ..
  | pbit k =>
    rw [Spec.rowField7, getLsbD_pbits_packFields7, fieldWidth7]
    by_cases hk : k.val < (refDesc7 m).np <;> simp [hk, Spec.packedField7]

/-- The contract, or the register's own width, makes every operand that is placed fit its field (R350). -/
theorem packedField7_lt {m : Mode7} {s : State} (h : contract7 refConfig m s = true) {x : Field7}
    (hx : 0 < fieldWidth7 m x) : Spec.packedField7 s x < 2 ^ fieldWidth7 m x := by
  obtain ⟨hpart, hcomps, -, -⟩ := contract7_iff_clauses.mp h
  cases x with
  | part => exact hpart hx
  | rot =>
    have hrb : (refDesc7 m).rb = 0 ∨ (refDesc7 m).rb = 2 := by cases m <;> decide
    have hwidth : fieldWidth7 m .rot = 2 := hrb.resolve_left hx.ne'
    rw [hwidth]
    exact s.rot.isLt
  | idxm =>
    have hisb : (refDesc7 m).isb = 0 ∨ (refDesc7 m).isb = 1 := by cases m <;> decide
    have hwidth : fieldWidth7 m .idxm = 1 := hisb.resolve_left hx.ne'
    rw [hwidth]
    exact s.idxm.isLt
  | comp e c => exact hcomps e c hx
  | pbit k =>
    rw [Nat.le_antisymm (fieldWidth7_pbit_le m k) hx]
    exact Bool.toNat_lt _

theorem packFields7_idx (m : Mode7) (s : State) : (packFields7 refConfig m s).idx = s.idx := rfl

theorem packFields7_idx2_of_some {m : Mode7} {ib2 : Nat} (h : (refDesc7 m).ib2 = some ib2) (s : State) :
    (packFields7 refConfig m s).idx2 = s.idx2 := by
  have hdesc : (refConfig.desc7 m).ib2 = some ib2 := h
  rw [packFields7, hdesc]

theorem packFields7_idx2_of_none {m : Mode7} (h : (refDesc7 m).ib2 = none) (s : State) :
    (packFields7 refConfig m s).idx2 = Vector.replicate 16 0#4 := by
  have hdesc : (refConfig.desc7 m).ib2 = none := h
  rw [packFields7, hdesc]

/-- The fields that a pack places are well formed: the decoder reads them back (R303, R350). -/
theorem wf7_packFields7 {m : Mode7} {s : State} (h : contract7 refConfig m s = true) :
    wf7 refConfig m (packFields7 refConfig m s) = true := by
  obtain ⟨-, -, hidx, hidx2⟩ := contract7_iff_clauses.mp h
  refine wf7_iff.mpr
    ⟨fun x => ?_, hidx, fun ib2 hib2 => ?_, fun hnone => packFields7_idx2_of_none hnone s⟩
  · rw [rowField7_packFields7]
    split_ifs with hx
    · exact packedField7_lt h hx
    · exact Nat.two_pow_pos _
  · rw [packFields7_idx2_of_some hib2]
    exact hidx2 ib2 hib2

section Packed

variable {m : Mode7} {s : State} (h : contract7 refConfig m s = true)
include h

/-- A field of the layout holds the register's value (R350). -/
theorem field_packFields7 {x : Field7 × Span} (hx : x ∈ (refLayout7 m).fields) :
    Spec.field (encodeBlock7 refConfig m (packFields7 refConfig m s)) x.2.pos x.2.width =
      Spec.packedField7 s x.1 := by
  obtain ⟨-, -, hpos, hle⟩ := fields7_range m x hx
  have hwidth := width_of_lookup7 (fields7_lookup m x hx)
  obtain ⟨hfits, -⟩ := wf7_iff.mp (wf7_packFields7 h)
  rw [← toNat_memRead _ _ (by omega), memRead_encodeBlock7_field m _ x hx, hwidth,
    toNat_value7_and_mask (hfits x.1), rowField7_packFields7, if_pos (by omega)]

/-- A first index stands in the span that the statements give its pixel (R350). -/
theorem field_index_packFields7 (i : Pixel) :
    Spec.field (encodeBlock7 refConfig m (packFields7 refConfig m s))
      ((refLayout7 m).indexBegin + Spec.indexOffset (refDesc7 m).ns s.part.toNat (refDesc7 m).ib i.val)
      (Spec.indexWidth (refDesc7 m).ns s.part.toNat (refDesc7 m).ib i.val) = s.idx[i].toNat := by
  obtain ⟨-, hib, hib2, -⟩ := desc7_bounds m
  obtain ⟨-, hidx, -⟩ := wf7_iff.mp (wf7_packFields7 h)
  have hread := IndexArray.read_eq hidx (memRead_encodeBlock7_index m _)
  rw [← indexOffset_packPart7, ← indexWidth_packPart7]
  exact (toNat_getElem_read (indexArray7 (refDesc7 m) (refLayout7 m) (packPart7 (refDesc7 m) s.part))
    (anchorsAgree_desc7 m _) (Nat.le_of_succ_le hib2) hib _ i).symm.trans
    (congrArg (fun idx : IdxFile => idx[i].toNat) hread)

/-- A second index, likewise (R350). -/
theorem field_index2_packFields7 {ib2 : Nat} (hib2 : (refDesc7 m).ib2 = some ib2) (i : Pixel) :
    Spec.field (encodeBlock7 refConfig m (packFields7 refConfig m s))
      ((refLayout7 m).index2Begin + Spec.indexOffset 1 0 ib2 i.val) (Spec.indexWidth 1 0 ib2 i.val) =
        s.idx2[i].toNat := by
  obtain ⟨hpos, hle⟩ := ib2_bounds hib2
  obtain ⟨-, -, hsecond, -⟩ := wf7_iff.mp (wf7_packFields7 h)
  have hread := IndexArray.read_eq (hsecond ib2 hib2) (memRead_encodeBlock7_index2 m _ ib2 hib2)
  rw [packFields7_idx2_of_some hib2] at hread
  exact (toNat_getElem_read (indexArray72 (refLayout7 m) ib2) (anchorsAgree_one _ _ _) hpos hle
    _ i).symm.trans (congrArg (fun idx : IdxFile => idx[i].toNat) hread)

end Packed

/-- Settles O40: a packed block is the encoding of `packFields7`, whose fields and indices are the
registers' (R350). -/
theorem bc7PackPlacesTheFields : Obligations.Bc7PackPlacesTheFields := by
  intro s m hpackable d l
  have h := contract7_iff.mpr hpackable
  refine ⟨_, exec_bc7Pack_of_fits h, rfl, ?_, ?_, ?_⟩ <;> rw [State.complete_blk, State.setBlk_blk]
  · exact field_selector7 (modeOf7_encodeBlock7 m _)
  · exact fun x hx => field_packFields7 h hx
  · exact fun i => ⟨field_index_packFields7 h i, fun ib2 hib2 => field_index2_packFields7 h hib2 i⟩

/-! ## Packing after an unpack (O42) -/

/-- The unpack leaves every field in the register that the pack takes it from (R331, R350). -/
theorem packedField7_live7 (m : Mode7) (f : Fields7) (s : State) (x : Field7) :
    Spec.packedField7 (live7 refConfig m f s) x = Spec.rowField7 f x := by
  cases x <;> rfl

section AfterUnpack

variable {m : Mode7} {f : Fields7} (hf : wf7 refConfig m f = true) (s : State)
include hf

theorem packPart7_of_wf7 : packPart7 (refDesc7 m) f.part = f.part := by
  obtain ⟨hfits, -⟩ := wf7_iff.mp hf
  by_cases hpb : 0 < (refDesc7 m).pb
  · exact packPart7_of_pos hpb _
  · have hlt : f.part.toNat < 2 ^ (refDesc7 m).pb := hfits .part
    rw [Nat.eq_zero_of_not_pos hpb] at hlt
    rw [packPart7_of_not_pos hpb]
    exact BitVec.eq_of_toNat_eq (Nat.lt_one_iff.mp hlt).symm

/-- What the unpack of fields that fit leaves in the registers passes the check (R352 (a)). -/
theorem contract7_live7 : contract7 refConfig m (live7 refConfig m f s) = true := by
  obtain ⟨hfits, hidx, hidx2, -⟩ := wf7_iff.mp hf
  refine contract7_iff_clauses.mpr ⟨fun _ => hfits .part, fun e c _ => hfits (.comp e c), ?_, hidx2⟩
  show (indexArray7 (refDesc7 m) (refLayout7 m) (packPart7 (refDesc7 m) f.part)).fits refConfig f.idx = true
  rwa [packPart7_of_wf7 hf]

/-- Packing what the unpack of fields that fit leaves places those fields (R352 (a)). -/
theorem packFields7_live7 : packFields7 refConfig m (live7 refConfig m f s) = f := by
  obtain ⟨hfits, -, -, hnone⟩ := wf7_iff.mp hf
  refine fields7_ext (fun x => ?_) (packFields7_idx m _) ?_
  · rw [rowField7_packFields7, packedField7_live7]
    split_ifs with hx
    · rfl
    · have hlt := hfits x
      rw [Nat.eq_zero_of_not_pos hx] at hlt
      exact (Nat.lt_one_iff.mp hlt).symm
  · cases hib2 : (refDesc7 m).ib2 with
    | none => rw [packFields7_idx2_of_none hib2, hnone hib2]
    | some ib2 => exact packFields7_idx2_of_some hib2 _

end AfterUnpack

/-- Settles O42: the unpack leaves the block's fields, which packing encodes again. -/
theorem bc7PackOfUnpack : Obligations.Bc7PackOfUnpack := by
  intro s t m hm ht
  rw [exec_bc7Unpack, unpack7_of_mode hm] at ht
  cases ht
  have hf := wf7_fields7 m s.blk
  refine ⟨_, exec_bc7Pack_of_fits (contract7_live7 hf s), ?_, ?_⟩
  · rw [State.complete_blk, State.setBlk_blk, packFields7_live7 hf, encodeBlock7_fields7 hm]
  · rw [State.complete_status, statusErr_statusWord]

/-! ## Unpacking after a pack (O43) -/

theorem packFields7_idx2 (m : Mode7) (s : State) : (packFields7 refConfig m s).idx2 =
    if (refDesc7 m).ib2.isSome = true then s.idx2 else Vector.replicate 16 0#4 := by
  cases hib2 : (refDesc7 m).ib2 with
  | none => exact packFields7_idx2_of_none hib2 s
  | some ib2 => exact packFields7_idx2_of_some hib2 s

/-- Settles O43: the unpack's fields are those the pack placed. -/
theorem bc7UnpackOfPack : Obligations.Bc7UnpackOfPack := by
  intro s t m hpackable ht d
  have h := contract7_iff.mpr hpackable
  rw [exec_bc7Pack_of_fits h] at ht
  cases ht
  generalize ht : (s.setBlk _).complete _ _ _ = t
  have hblk : t.blk = encodeBlock7 refConfig m (packFields7 refConfig m s) := by
    rw [← ht, State.complete_blk, State.setBlk_blk]
  have hm : modeOf7 t.blk = some m := by rw [hblk, modeOf7_encodeBlock7]
  have hunpack : unpack7 refConfig t = live7 refConfig m (packFields7 refConfig m s) t := by
    rw [unpack7_of_mode hm, hblk, fields7_encodeBlock7 (wf7_packFields7 h)]
  refine ⟨_, exec_bc7Unpack t, hm, ?_⟩
  rw [hunpack]
  refine ⟨rfl, rfl, rfl, fun e c => ?_, getLsbD_pbits_packFields7 m s, rfl, packFields7_idx2 m s, ?_⟩
  · exact (epAt_packFields7 m s e c).trans (if_congr (compWidth7_pos_iff m e c) rfl rfl)
  rw [live7, State.complete_status, statusMode_statusWord]
  cases m <;> rfl

end Sys2Proof.Machine

/-! PROOFS. The host and the system (spec/49_host_and_system.md; spec/60_exceptions.md;
spec/70_reset_and_hazards.md): what a read and a write of a register do, what a write of `CMD` does, and how
commands fault. -/

namespace Sys2Proof.Machine

/-! ## Register numbers (R20) -/

/-- The numbers to which R20 gives no register. -/
def AbsentNumber (k : Nat) : Prop := (0x0D ≤ k ∧ k < 0x10) ∨ (0x28 ≤ k ∧ k < 0x30) ∨ 0x60 ≤ k

theorem regNumber_of_regOfNumber {n : BitVec 8} {r : Reg} (h : regOfNumber n = some r) :
    regNumber r = n.toNat := by
  have hall : ∀ n : BitVec 8, ∀ r ∈ regOfNumber n, regNumber r = n.toNat := by decide +kernel
  exact hall n r h

theorem regOfNumber_eq_none_iff (n : BitVec 8) : regOfNumber n = none ↔ AbsentNumber n.toNat := by
  unfold AbsentNumber
  decide +kernel +revert

theorem regNumber_injective : Function.Injective regNumber := by
  intro r r' h
  have hsome := regOfNumber_regNumber r
  rw [h, regOfNumber_regNumber] at hsome
  exact (Option.some.inj hsome).symm

/-- Every number names a register or none. -/
theorem exists_regNumber_or_absent (k : Nat) : (∃ r, regNumber r = k) ∨ AbsentNumber k := by
  by_cases hk : AbsentNumber k
  · exact .inr hk
  · have hlt : k < 2 ^ 8 := by unfold AbsentNumber at hk; omega
    have hnumber : (BitVec.ofNat 8 k).toNat = k := by
      rw [BitVec.toNat_ofNat, Nat.mod_eq_of_lt hlt]
    obtain ⟨r, hr⟩ : ∃ r, regOfNumber (BitVec.ofNat 8 k) = some r := by
      rw [← Option.ne_none_iff_exists', ne_eq, regOfNumber_eq_none_iff, hnumber]
      exact hk
    exact .inl ⟨r, (regNumber_of_regOfNumber hr).trans hnumber⟩

/-! ## The register space of the statements (R20, R380) -/

/-- Above the registers 0x00 to 0x0C stand the four register files. -/
theorem registerValue_of_ge (s : State) {k : Nat} (h : 0x0D ≤ k) : Spec.registerValue s k =
    if 0x10 ≤ k ∧ k < 0x28 then (s.ep.toList.getD (k - 0x10) 0#16).toNat
    else if 0x30 ≤ k ∧ k < 0x40 then (s.idx.toList.getD (k - 0x30) 0#4).toNat
    else if 0x40 ≤ k ∧ k < 0x50 then (s.idx2.toList.getD (k - 0x40) 0#4).toNat
    else if 0x50 ≤ k ∧ k < 0x60 then (s.tex.toList.getD (k - 0x50) 0#64).toNat
    else 0 := by
  unfold Spec.registerValue
  split
  case h_14 => rfl
  all_goals omega

theorem writableWidth_of_ge {k : Nat} (h : 0x0D ≤ k) : Spec.writableWidth k =
    if 0x10 ≤ k ∧ k < 0x28 then 16 else if 0x30 ≤ k ∧ k < 0x50 then 4 else 0 := by
  unfold Spec.writableWidth
  split
  case h_12 => rfl
  all_goals omega

theorem registerValue_of_absent (s : State) {k : Nat} (h : AbsentNumber k) :
    Spec.registerValue s k = 0 := by
  unfold AbsentNumber at h
  rw [registerValue_of_ge s (by omega), if_neg (by omega), if_neg (by omega), if_neg (by omega),
    if_neg (by omega)]

theorem writableWidth_of_absent {k : Nat} (h : AbsentNumber k) : Spec.writableWidth k = 0 := by
  unfold AbsentNumber at h
  rw [writableWidth_of_ge (by omega), if_neg (by omega), if_neg (by omega)]

/-- An element of a register file, found by its number. -/
theorem getD_toList_vector {α : Type} {n : Nat} (v : Vector α n) {k : Nat} (h : k < n) (x : α) :
    v.toList.getD k x = v[k] := by
  rw [List.getD_eq_getElem _ _ (by simpa using h), Vector.getElem_toList]

/-- The number of a register reads its value (R20, R380). -/
theorem registerValue_regNumber (s : State) (r : Reg) :
    Spec.registerValue s (regNumber r) = (readReg s r).toNat := by
  cases r with
  | ep e c =>
    have hk : 4 * e.val + c.val < 24 := by omega
    rw [regNumber, registerValue_of_ge s (by omega), if_pos (by omega), Nat.add_assoc,
      Nat.add_sub_cancel_left, getD_toList_vector _ hk]
    exact (BitVec.toNat_setWidth_of_le (by decide)).symm
  | idx i =>
    rw [regNumber, registerValue_of_ge s (by omega), if_neg (by omega), if_pos (by omega),
      Nat.add_sub_cancel_left, getD_toList_vector _ i.isLt]
    exact (BitVec.toNat_setWidth_of_le (by decide)).symm
  | idx2 i =>
    rw [regNumber, registerValue_of_ge s (by omega), if_neg (by omega), if_neg (by omega),
      if_pos (by omega), Nat.add_sub_cancel_left, getD_toList_vector _ i.isLt]
    exact (BitVec.toNat_setWidth_of_le (by decide)).symm
  | tex i =>
    rw [regNumber, registerValue_of_ge s (by omega), if_neg (by omega), if_neg (by omega),
      if_neg (by omega), if_pos (by omega), Nat.add_sub_cancel_left, getD_toList_vector _ i.isLt]
    rfl
  | blkLo | blkHi | bfValue => rfl
  | _ => exact (BitVec.toNat_setWidth_of_le (by decide)).symm

/-! ## RD (O51) -/

/-- A read returns what the statements' register space holds. -/
theorem hostRead_eq (s : State) (n : BitVec 8) :
    hostRead s n = BitVec.ofNat 64 (Spec.registerValue s n.toNat) := by
  unfold hostRead
  split
  case h_1 r hr =>
    rw [← regNumber_of_regOfNumber hr, registerValue_regNumber, BitVec.ofNat_toNat, BitVec.setWidth_eq]
  case h_2 hnone => rw [registerValue_of_absent s ((regOfNumber_eq_none_iff n).mp hnone)]

/-- Settles O51: the value is appended to the values read, and no register is written. -/
theorem hostReadReturnsTheRegister : Obligations.HostReadReturnsTheRegister := by
  intro s n rest hscript
  rw [step_rd s n rest hscript, hostRead_eq]
  rfl

/-! ## WR of a register other than `CMD` (O52) -/

theorem writableWidth_pos_iff (r : Reg) :
    0 < Spec.writableWidth (regNumber r) ↔ regWritable r = true := by
  cases r with
  | ep e c =>
    rw [regNumber, writableWidth_of_ge (by omega), if_pos (by omega)]
    exact iff_of_true (by decide) rfl
  | idx i | idx2 i =>
    rw [regNumber, writableWidth_of_ge (by omega), if_neg (by omega), if_pos (by omega)]
    exact iff_of_true (by decide) rfl
  | tex i =>
    rw [regNumber, writableWidth_of_ge (by omega), if_neg (by omega), if_neg (by omega)]
    exact iff_of_false (by decide) Bool.false_ne_true
  | _ => decide

/-- A register the host may not write is left alone, with every other (R38). -/
theorem writeReg_of_not_writable (s : State) (v : Word64) {r : Reg} (h : regWritable r = false) :
    writeReg s v r = s := by
  cases r with
  | status | ptr | tex i => rfl
  | _ => cases h

/-- A written register holds the low bits of the value (R380). -/
theorem toNat_readReg_writeReg_same (s : State) (v : Word64) {r : Reg} (h : regWritable r = true) :
    (readReg (writeReg s v r) r).toNat = v.toNat % 2 ^ Spec.writableWidth (regNumber r) := by
  have hlow : ∀ w ≤ 64, ((v.setWidth w).setWidth 64).toNat = v.toNat % 2 ^ w := fun w hw => by
    rw [BitVec.toNat_setWidth_of_le hw, BitVec.toNat_setWidth]
  cases r with
  | status | ptr | tex i => cases h
  | blkLo | blkHi | bfValue => exact (Nat.mod_eq_of_lt v.isLt).symm
  | ep e c =>
    rw [regNumber, writableWidth_of_ge (by omega), if_pos (by omega), readReg, writeReg, epAt,
      Vector.getElem_set_self]
    exact hlow 16 (by decide)
  | idx i | idx2 i =>
    rw [regNumber, writableWidth_of_ge (by omega), if_neg (by omega), if_pos (by omega), readReg, writeReg,
      Fin.getElem_fin, Vector.getElem_set_self]
    exact hlow 4 (by decide)
  | _ => exact hlow _ (by decide)

/-- A write leaves every other register as it was (R380): another field of the state, or another element of
the same register file. -/
theorem readReg_writeReg_of_ne (s : State) (v : Word64) {r r' : Reg} (h : r' ≠ r) :
    readReg (writeReg s v r) r' = readReg s r' := by
  cases r' with
  | ep e c =>
    cases r with
    | ep e' c' =>
      have hne : 4 * e'.val + c'.val ≠ 4 * e.val + c.val := fun heq =>
        h (by rw [Fin.ext (by omega : e.val = e'.val), Fin.ext (by omega : c.val = c'.val)])
      rw [readReg, writeReg, epAt, Vector.getElem_set_ne _ _ hne]
      rfl
    | _ => rfl
  | idx i =>
    cases r with
    | idx j =>
      have hne : j.val ≠ i.val := fun heq => h (by rw [Fin.ext heq])
      rw [readReg, writeReg, Fin.getElem_fin, Vector.getElem_set_ne _ _ hne]
      rfl
    | _ => rfl
  | idx2 i =>
    cases r with
    | idx2 j =>
      have hne : j.val ≠ i.val := fun heq => h (by rw [Fin.ext heq])
      rw [readReg, writeReg, Fin.getElem_fin, Vector.getElem_set_ne _ _ hne]
      rfl
    | _ => rfl
  | tex i => cases r <;> rfl
  | _ => cases r <;> simp_all [readReg, writeReg]

/-- What a register write makes of the register space (R20, R380). -/
theorem registerValue_writeReg (s : State) (v : Word64) (r : Reg) (k : Nat) :
    Spec.registerValue (writeReg s v r) k =
      if k = regNumber r ∧ 0 < Spec.writableWidth k then v.toNat % 2 ^ Spec.writableWidth k
      else Spec.registerValue s k := by
  rcases exists_regNumber_or_absent k with ⟨r', rfl⟩ | habsent
  · simp only [regNumber_injective.eq_iff, writableWidth_pos_iff, registerValue_regNumber]
    split_ifs with hwrite
    · obtain ⟨rfl, hw⟩ := hwrite
      exact toNat_readReg_writeReg_same s v hw
    · rcases not_and_or.mp hwrite with hne | hw
      · rw [readReg_writeReg_of_ne s v hne]
      · by_cases heq : r' = r
        · rw [writeReg_of_not_writable s v (heq ▸ Bool.eq_false_of_not_eq_true hw)]
        · rw [readReg_writeReg_of_ne s v heq]
  · rw [registerValue_of_absent _ habsent, registerValue_of_absent _ habsent,
      writableWidth_of_absent habsent, if_neg (fun h => absurd h.2 (Nat.lt_irrefl 0))]

/-- What a host write makes of the register space; a number that names no register names none to write. -/
theorem registerValue_hostWrite (s : State) (n : BitVec 8) (v : Word64) (k : Nat) :
    Spec.registerValue (hostWrite s n v) k =
      if k = n.toNat ∧ 0 < Spec.writableWidth k then v.toNat % 2 ^ Spec.writableWidth k
      else Spec.registerValue s k := by
  unfold hostWrite
  split
  case h_1 r hr => rw [registerValue_writeReg, regNumber_of_regOfNumber hr]
  case h_2 hnone =>
    have habsent := (regOfNumber_eq_none_iff n).mp hnone
    rw [if_neg]
    rintro ⟨rfl, hpos⟩
    exact absurd hpos (by rw [writableWidth_of_absent habsent]; exact Nat.lt_irrefl 0)

/-- A register write leaves the host's stream alone. -/
theorem hostWrite_stream (s : State) (n : BitVec 8) (v : Word64) :
    (hostWrite s n v).script = s.script ∧ (hostWrite s n v).readLog = s.readLog := by
  unfold hostWrite
  split
  case h_1 r _ => cases r <;> exact ⟨rfl, rfl⟩
  case h_2 => exact ⟨rfl, rfl⟩

theorem regOfNumber_eq_cmd_iff (n : BitVec 8) : regOfNumber n = some .cmd ↔ n = 0x02#8 := by
  constructor
  · exact fun h => BitVec.eq_of_toNat_eq (regNumber_of_regOfNumber h).symm
  · rintro rfl
    rfl

/-- Settles O52: the step is the register write, with the transaction consumed. -/
theorem hostWriteWritesTheRegister : Obligations.HostWriteWritesTheRegister := by
  intro s n v rest hscript hn
  obtain ⟨hkept, hlog⟩ := hostWrite_stream (s.setScript rest) n v
  exact ⟨_, step_wr s n v rest hscript (mt (regOfNumber_eq_cmd_iff n).mp hn), hkept, hlog,
    registerValue_hostWrite (s.setScript rest) n v⟩

/-! ## WR of `CMD` (O47, O53) -/

/-- A write of a word that decodes runs the instruction (R382). -/
theorem step_wr_cmd_of_ok {s : State} {v : Word64} {rest : List HostOp} {i : Instr}
    (h : s.script = .wr 0x02#8 v :: rest) (hi : decodeCmd (v.setWidth 32) = .ok i) :
    step s = exec i ((s.setScript rest).setCmd (v.setWidth 32)) := by
  rw [step_wr_cmd s v rest h, runCommand, hi]

/-- A write of a word that does not decode stores it and raises IllegalCommand (R385). -/
theorem step_wr_cmd_of_error {s : State} {v : Word64} {rest : List HostOp} {e : IllegalWord}
    (h : s.script = .wr 0x02#8 v :: rest) (he : decodeCmd (v.setWidth 32) = .error e) :
    step s = .next (((s.setScript rest).setCmd (v.setWidth 32)).raise .illegalCommand) := by
  rw [step_wr_cmd s v rest h, runCommand, he]

/-- Settles O47: the words that R94 names are those the decoder rejects. -/
theorem illegalCommandFaults : Obligations.IllegalCommandFaults := by
  intro s v rest hscript hillegal
  rw [← BitVec.toNat_setWidth] at hillegal
  obtain ⟨e, he⟩ := (illegalWordsAreTheClauses (v.setWidth 32)).mpr hillegal
  rw [step_wr_cmd_of_error hscript he]
  rfl

/-- The row that the block decodes to, run in the profile of `CMD`, is the unpack of the block (R104). -/
theorem exec_of_decode_block6 {s : State} {b : Block} {signed : Bool} {i : Instr} (hb : s.blk = b)
    (hsigned : s.signed = signed) (h : decode refConfig (.block6 b) = .ok i) :
    exec i s = .next (unpack6 refConfig signed s) := by
  rw [← Except.ok.inj h, ← hb, ← hsigned]
  exact exec_decodeBlock6 s

theorem exec_of_decode_block7 {s : State} {b : Block} {i : Instr} (hb : s.blk = b)
    (h : decode refConfig (.block7 b) = .ok i) : exec i s = .next (unpack7 refConfig s) := by
  rw [← Except.ok.inj h, ← hb]
  exact exec_decodeBlock7 s

/-- The unpack commands run the row of the block: of BC6H in their own profile (R91, R104). -/
theorem exec_unpack_of_decode {s : State} {w : Word32} {i : Instr}
    (h : ((w = 0x007#32 ∨ w = 0x207#32) ∧ decode refConfig (.block6 s.blk) = .ok i) ∨
      (w = 0x00A#32 ∧ decode refConfig (.block7 s.blk) = .ok i)) :
    ∃ j, decodeCmd w = .ok j ∧ exec j (s.setCmd w) = exec i (s.setCmd w) := by
  rcases h with ⟨rfl | rfl, hi⟩ | ⟨rfl, hi⟩
  · exact ⟨.bc6hUnpackU, rfl, (exec_of_decode_block6 (s.setCmd_blk _) (s.setCmd_signed _) hi).symm⟩
  · exact ⟨.bc6hUnpackS, rfl, (exec_of_decode_block6 (s.setCmd_blk _) (s.setCmd_signed _) hi).symm⟩
  · exact ⟨.bc7Unpack, rfl, (exec_of_decode_block7 (s.setCmd_blk _) hi).symm⟩

/-- Settles O53: a word's instruction runs by `step_wr_cmd_of_ok`, and that of an unpack word does what the
row of the block does. -/
theorem stepRunsTheDecodedInstruction : Obligations.StepRunsTheDecodedInstruction := by
  refine ⟨fun s v rest i hscript hi => step_wr_cmd_of_ok hscript hi, fun s v rest i hscript hblock => ?_⟩
  rw [← s.setScript_blk rest] at hblock
  obtain ⟨j, hj, hexec⟩ := exec_unpack_of_decode hblock
  exact (step_wr_cmd_of_ok hscript hj).trans hexec

/-! ## NOP, the idle engine, and a next state for every state (O44, O54, O55) -/

/-- Settles O44: the meaning of NOP is to complete. -/
theorem nopWritesOnlyStatus : Obligations.NopWritesOnlyStatus := fun _ => rfl

/-- Settles O54. -/
theorem idleEngineDoesNothing : Obligations.IdleEngineDoesNothing := step_nil

/-- A transaction always gives a next state and leaves the ones to come alone: a command by what every
instruction leaves unchanged. -/
theorem transact_next (op : HostOp) (s : State) :
    ∃ t, transact op s = .next t ∧ t.script = s.script := by
  cases op with
  | rd n => exact ⟨_, rfl, rfl⟩
  | wr n v =>
    rw [transact]
    split_ifs
    · rw [runCommand]
      split
      case h_1 i _ =>
        obtain ⟨t, ht⟩ := exec_next i (s.setCmd (v.setWidth 32))
        obtain ⟨⟨-, -, -, -, hscript, -⟩, -⟩ := commandsWriteOnlyTheirRegisters i _ t ht
        exact ⟨t, ht, hscript⟩
      case h_2 => exact ⟨_, rfl, rfl⟩
    · exact ⟨_, rfl, (hostWrite_stream s n v).1⟩

/-- Settles O55, by the next transaction, if there is one. -/
theorem everyStepGivesANextState : Obligations.EveryStepGivesANextState := by
  intro s
  cases hscript : s.script with
  | nil => exact ⟨s, step_nil s hscript, hscript⟩
  | cons op rest =>
    rw [step_cons s op rest hscript]
    exact transact_next op (s.setScript rest)

/-! ## Faults (O45, O46) -/

/-- What R405 says of the state `t` after a command that began in `s` and ended in a fault. -/
def FaultedFrom (s t : State) : Prop :=
  t = { s with
    status := statusWord s.status (statusErr t.status) false
      (if statusErr t.status = 1#3 then 8#5 else 0#5) 0#2 } ∧
  statusDone t.status = true ∧ statusSticky t.status = true

/-- `raise` is precise: the `MODE` that it reports follows from the code. -/
theorem faultedFrom_raise (s : State) (e : Err) : FaultedFrom s (s.raise e) := by
  obtain ⟨-, herr, hsticky, hdone, -⟩ := s.raise_spec e
  refine ⟨?_, hdone, hsticky⟩
  rw [herr]
  cases e <;> rfl

/-- An instruction faults by `raise` alone: completing reports no error. -/
theorem faultedFrom_of_exec {i : Instr} {s t : State} (h : exec i s = .next t)
    (herr : statusErr t.status ≠ 0#3) : FaultedFrom s t := by
  rcases exec_shape i s t h with ⟨e, rfl, -⟩ | ⟨s', sent, mode, ns, rfl, -⟩
  · exact faultedFrom_raise s e
  · rw [State.complete_status, statusErr_statusWord] at herr
    exact absurd rfl herr

/-- Settles O45: of an instruction, and of a written word that runs one or is illegal. -/
theorem faultsArePrecise : Obligations.FaultsArePrecise := by
  refine ⟨fun i s t => faultedFrom_of_exec, fun s t v rest hscript hstep herr => ?_⟩
  cases hdecode : decodeCmd (v.setWidth 32) with
  | ok i =>
    rw [step_wr_cmd_of_ok hscript hdecode] at hstep
    exact faultedFrom_of_exec hstep herr
  | error e =>
    rw [step_wr_cmd_of_error hscript hdecode] at hstep
    cases hstep
    exact faultedFrom_raise ((s.setScript rest).setCmd (v.setWidth 32)) _

/-- Settles O46: a fault is one the instruction may raise, and a completed instruction may complete. -/
theorem faultsByCommand : Obligations.FaultsByCommand := by
  intro i s t h
  rcases exec_shape i s t h with ⟨e, rfl, hcode⟩ | ⟨s', sent, mode, ns, rfl, -, hzero, -⟩
  · rwa [State.raise_status, statusErr_statusWord]
  · rwa [State.complete_status, statusErr_statusWord]

end Sys2Proof.Machine
